-- ==== Sys2Proof/Word.lean ====
section
/-! DEFINITION. The word types of the block (00_scope.md R12): a Word is 16 bits, a byte 8 bits, both
unsigned; bit 0 is the least significant bit (R13). -/

namespace Sys2Proof

/-- A 16-bit word of the wire (00_scope.md R12, R20). -/
abbrev Word := BitVec 16

/-- A byte of the stream (00_scope.md R12). -/
abbrev Byte := BitVec 8

/-- A stream position: `POS_WIDTH` = 32 bits, wrapping (00_scope.md R11, 10_state.md R33). -/
abbrev Pos := BitVec 32

/-- A count of seek bytes: `CNT_WIDTH` = 32 bits (00_scope.md R11, 10_state.md R32). -/
abbrev Count := BitVec 32

end Sys2Proof
end

