-- ==== Sys2Proof/Config.lean ====
section
/-! DEFINITION. What is fixed when the block is instantiated (00_scope.md R11): the parameters and their
spec values. Nothing here is state; no command changes it (70_reset_and_hazards.md R342). The model has
no free value: the spec leaves no result open that an operation goes on with. -/

namespace Sys2Proof

/-- The two admitted values of `HDR_MATCH` (00_scope.md R11, 92_eei_decisions.md D3): the spec value
`0x8000` and the alternative `0xA280`. -/
inductive HdrMatch where
  /-- `HDR_MATCH` = `0x8000`: bits 13, 9 and 7 must be 0. -/
  | clear
  /-- `HDR_MATCH` = `0xA280`: bits 13, 9 and 7 must be 1. -/
  | set
  deriving DecidableEq, Repr

/-- `HDR_MATCH` as the 16-bit value `w & HDR_MASK` must equal (30_encoding.md R91). -/
def HdrMatch.word : HdrMatch → Word
  | .clear => 0x8000#16
  | .set => 0xA280#16

/-- The value that bits 13, 9 and 7 of a valid header hold (40_codec.md R130: with the alternative
`HDR_MATCH` the last three tests read `!= 1`). -/
def HdrMatch.bit : HdrMatch → Bool
  | .clear => false
  | .set => true

/-- The parameters that a model may be instantiated at another value than the spec's (00_scope.md R11):
`HDR_MATCH` at two values, `LM_MASK` at any 16-bit value, 0 disabling the LM-1 test. -/
structure Params where
  hdrMatch : HdrMatch
  lmMask : Word
  deriving DecidableEq, Repr

/-- The spec values of the parameters (00_scope.md R11; D3, D10). -/
def Params.spec : Params := { hdrMatch := .clear, lmMask := 0x2000#16 }

/-- `HDR_MASK`, the bits tested by header validation, fixed (00_scope.md R11). -/
def Config.hdrMask : Word := 0xA280#16

/-- `BODY_CAP`, the body buffer's capacity in words, fixed (00_scope.md R11, 10_state.md R38). -/
def Config.bodyCap : Nat := 255

end Sys2Proof
end

