-- ==== Sys2Proof/Syntax.lean ====
section
/-! DEFINITION. The operations of the block as syntax (00_scope.md R3: the "instructions" of the block are
its operations): one constructor of `Instr` for each row of spec/opcode_table.json, and the field views
(30_encoding.md R90, R94, R96, R97, R98) that the encode queries take. -/

namespace Sys2Proof

/-- The `Function` names of 30_encoding.md R95, in the order of their codes 0 to 7. -/
inductive FunctionName where
  | normal | o2Tenths | calibratingAir | calRequired | warmup | calibratingHeat | error | reserved
  deriving DecidableEq, Repr

/-- Header field view (30_encoding.md R90): every bit of the word in exactly one field (R99). -/
structure HeaderView where
  start : BitVec 1
  recording : BitVec 1
  clear13 : BitVec 1
  dataOrResponse : BitVec 1
  logCapable : BitVec 1
  reserved : BitVec 1
  clear9 : BitVec 1
  lengthHigh : BitVec 1
  clear7 : BitVec 1
  lengthLow : BitVec 7
  deriving DecidableEq, Repr

/-- Function field view (30_encoding.md R94); `s15`, `s14`, `s13`, `s9` are the status bits, which carry no
semantics (40_codec.md R152). -/
structure FunctionView where
  s15 : BitVec 1
  s14 : BitVec 1
  s13 : BitVec 1
  func : BitVec 3
  s9 : BitVec 1
  afHigh : BitVec 1
  mark : BitVec 1
  afLow : BitVec 7
  deriving DecidableEq, Repr

/-- Lambda field view (30_encoding.md R96). -/
structure LambdaView where
  s15 : BitVec 1
  s14 : BitVec 1
  high : BitVec 6
  s7 : BitVec 1
  low : BitVec 7
  deriving DecidableEq, Repr

/-- Battery field view (30_encoding.md R97). -/
structure BatteryView where
  s15 : BitVec 1
  s14 : BitVec 1
  div : BitVec 3
  high : BitVec 3
  s7 : BitVec 1
  low : BitVec 7
  deriving DecidableEq, Repr

/-- Aux field view (30_encoding.md R98). -/
structure AuxView where
  s : BitVec 5
  high : BitVec 3
  s7 : BitVec 1
  low : BitVec 7
  deriving DecidableEq, Repr

/-- What a body word counts as at its place in the frame (30_encoding.md R100). -/
inductive WordClass where
  | lm1 | function | lambda | battery | aux
  deriving DecidableEq, Repr

/-- The place of a body word: its index in the body, and whether word 0 is a FunctionWord. A body word's
kind depends on its position and on earlier words, not on its bits alone (30_encoding.md R100). -/
structure Place where
  pos : Nat
  afterFunction : Bool
  deriving DecidableEq, Repr

/-- The operations of the block: one constructor for each row of spec/opcode_table.json, in its order. -/
inductive Instr where
  /-- HEADER (30_encoding.md R91): the scan window is the valid header `w`. -/
  | header (w : Word)
  /-- LM1_WORD0 (43_assembler.md R236): body word 0 is `w`, with the LM-1 marker. -/
  | lm1Word0 (w : Word)
  /-- FUNCTION_WORD (30_encoding.md R94): body word 0 is `w`, with the function marker. -/
  | functionWord (w : Word)
  /-- LAMBDA_WORD (30_encoding.md R96): body word 1 after a FunctionWord is `w`. -/
  | lambdaWord (w : Word)
  /-- BATTERY_WORD (30_encoding.md R97): body word 2 after a FunctionWord is `w`, with a divider. -/
  | batteryWord (w : Word)
  /-- AUX_WORD (30_encoding.md R98): any remaining body word is `w`. -/
  | auxWord (w : Word)
  /-- NOP (44_interface.md R270). -/
  | nop
  /-- DECODE_NEXT (44_interface.md R271). -/
  | decodeNext
  /-- SET_BUDGET k (44_interface.md R272), `k` from `cmd_arg`. -/
  | setBudget (k : Count)
  /-- CLEAR_BUDGET (44_interface.md R273). -/
  | clearBudget
  /-- RESET (44_interface.md R274). -/
  | reset
  /- The reserved command codes 0x4 to 0xE (44_interface.md R275). -/
  | reservedCmd4
  | reservedCmd5
  | reservedCmd6
  | reservedCmd7
  | reservedCmd8
  | reservedCmd9
  | reservedCmdA
  | reservedCmdB
  | reservedCmdC
  | reservedCmdD
  | reservedCmdE
  /-- HDR_VALIDATE w (40_codec.md R130). -/
  | hdrValidate (w : Word)
  /-- HDR_DECODE w (40_codec.md R131). -/
  | hdrDecode (w : Word)
  /-- HDR_ENCODE h (40_codec.md R132). -/
  | hdrEncode (h : HeaderView)
  /-- HDR_SUMMARY w (40_codec.md R140). -/
  | hdrSummary (w : Word)
  /-- WORD_COUNT w (40_codec.md R146). -/
  | wordCount (w : Word)
  /-- FUNC_DECODE w (40_codec.md R150). -/
  | funcDecode (w : Word)
  /-- FUNC_ENCODE f (40_codec.md R151). -/
  | funcEncode (f : FunctionView)
  /-- LAMBDA_DECODE w (40_codec.md R153). -/
  | lambdaDecode (w : Word)
  /-- LAMBDA_ENCODE l (40_codec.md R154). -/
  | lambdaEncode (l : LambdaView)
  /-- BATT_DECODE w (40_codec.md R156). -/
  | battDecode (w : Word)
  /-- BATT_ENCODE b (40_codec.md R157). -/
  | battEncode (b : BatteryView)
  /-- AUX_DECODE w (40_codec.md R159). -/
  | auxDecode (w : Word)
  /-- AUX_ENCODE a (40_codec.md R160). -/
  | auxEncode (a : AuxView)
  /-- AUX_VOLTS w (41_derived.md R170). -/
  | auxVolts (w : Word)
  /-- AUX_PERCENT w (41_derived.md R171). -/
  | auxPercent (w : Word)
  /-- AUX_RPM w (41_derived.md R172). -/
  | auxRpm (w : Word)
  /-- AF_VALUE w (41_derived.md R173). -/
  | afValue (w : Word)
  /-- AF_UNITS w (41_derived.md R174). -/
  | afUnits (w : Word)
  /-- PKT_AFR (41_derived.md R175). -/
  | pktAfr
  /-- PKT_WORDS (44_interface.md R280). -/
  | pktWords
  /- The reserved query codes 0x14 to 0x1F (44_interface.md R282). -/
  | reservedQ14
  | reservedQ15
  | reservedQ16
  | reservedQ17
  | reservedQ18
  | reservedQ19
  | reservedQ1A
  | reservedQ1B
  | reservedQ1C
  | reservedQ1D
  | reservedQ1E
  | reservedQ1F
  /-- SCAN_BYTE (42_scanner.md R202): one step while ST = SEEK, on the byte source's next answer. -/
  | scanByte
  /-- BODY_BYTE (43_assembler.md R231): one step while ST = BODY, on the byte source's next answer. -/
  | bodyByte
  /-- CLASSIFY(hdr, off, body) (43_assembler.md R236). -/
  | classify (hdr : Word) (off : Pos) (body : List Word)
  deriving DecidableEq, Repr

end Sys2Proof
end

