-- ==== Sys2Proof/Machine/Codec.lean ====
section
/-! DEFINITION. The BitField Codec and the Header Decoder as pure functions (40_codec.md R129: they read no
state and write none), the byte order of the wire (20_memory.md R76) and the positional classes of body
words (30_encoding.md R100). -/

namespace Sys2Proof

/-- The round-trip laws of a word kind (40_codec.md R165): encoding the decoding of a word gives the word, and
decoding the encoding of a view gives the view. They hold of the five kinds (Laws/Codec.lean). -/
def RoundTrips {View : Type} (decodeWord : Word → View) (encodeView : View → Word) : Prop :=
  (∀ w, encodeView (decodeWord w) = w) ∧ ∀ v, decodeWord (encodeView v) = v

/-! ### Byte order (20_memory.md R76) -/

/-- The most significant byte of a word, first on the wire. -/
def Word.hi (w : Word) : Byte := w.extractLsb' 8 8

/-- The least significant byte of a word, second on the wire. -/
def Word.lo (w : Word) : Byte := w.extractLsb' 0 8

/-- `{hi, lo}`: the word formed from the byte at a position followed by the byte at the next (R76). -/
def Word.ofBytes (hi lo : Byte) : Word := hi ++ lo

/-- The bytes of a list of words as they stand on the wire, each word most significant byte first
(20_memory.md R76, 44_interface.md R280, and `WORDS` of 30_encoding.md R115). -/
def wireBytes : List Word → List Byte
  | [] => []
  | w :: ws => w.hi :: w.lo :: wireBytes ws

/-- `{SR[7:0], b}`: the scan window after byte `b` ("shift left 8 and OR in the new byte", 42_scanner.md
R202). -/
def scanWindow (sr : Word) (b : Byte) : Word := Word.ofBytes sr.lo b

/-! ### Header word (30_encoding.md R90 to R93, 40_codec.md R130 to R146) -/

/-- The result of header validation: OK, or the offending bit (40_codec.md R130). -/
inductive HdrCheck where
  | ok
  | invalid (bit : Nat)
  deriving DecidableEq, Repr

/-- `HDR_VALIDATE` (40_codec.md R130): the first failing bit in the order 15, 13, 9, 7 is reported. -/
def hdrValidate (m : HdrMatch) (w : Word) : HdrCheck :=
  if w.getLsbD 15 ≠ true then .invalid 15
  else if w.getLsbD 13 ≠ m.bit then .invalid 13
  else if w.getLsbD 9 ≠ m.bit then .invalid 9
  else if w.getLsbD 7 ≠ m.bit then .invalid 7
  else .ok

/-- Whether a word is a valid header: whether `HDR_VALIDATE` answers OK. -/
def hdrValid (m : HdrMatch) (w : Word) : Bool := hdrValidate m w = .ok

/-- `word_count(w) = (w[8] << 7) | w[6:0]`, 8 bits, for every word (30_encoding.md R92, 40_codec.md R146). -/
def wordCount (w : Word) : BitVec 8 := w.extractLsb' 8 1 ++ w.extractLsb' 0 7

/-- `HDR_DECODE` (40_codec.md R131). -/
def hdrDecode (w : Word) : HeaderView where
  start := w.extractLsb' 15 1
  recording := w.extractLsb' 14 1
  clear13 := w.extractLsb' 13 1
  dataOrResponse := w.extractLsb' 12 1
  logCapable := w.extractLsb' 11 1
  reserved := w.extractLsb' 10 1
  clear9 := w.extractLsb' 9 1
  lengthHigh := w.extractLsb' 8 1
  clear7 := w.extractLsb' 7 1
  lengthLow := w.extractLsb' 0 7

/-- `HDR_ENCODE` (40_codec.md R132). -/
def hdrEncode (h : HeaderView) : Word :=
  h.start ++ h.recording ++ h.clear13 ++ h.dataOrResponse ++ h.logCapable ++ h.reserved ++ h.clear9 ++
    h.lengthHigh ++ h.clear7 ++ h.lengthLow

/-- `is_data` (40_codec.md R141). -/
def isData (w : Word) : Bool := w.getLsbD 12

/-- `is_response` (40_codec.md R141). -/
def isResponse (w : Word) : Bool := !w.getLsbD 12

/-- `can_log` (40_codec.md R142). -/
def canLog (w : Word) : Bool := w.getLsbD 11

/-- `is_recording` (40_codec.md R143). -/
def isRecording (w : Word) : Bool := w.getLsbD 14

/-- The header view of `HDR_SUMMARY` (40_codec.md R140). -/
structure Summary where
  isData : Bool
  isResponse : Bool
  canLog : Bool
  isRecording : Bool
  wordCount : BitVec 8
  deriving DecidableEq, Repr

/-- The fields `HDR_SUMMARY` returns for a valid header (40_codec.md R140); `RESERVED` is not reported. -/
def summary (w : Word) : Summary where
  isData := isData w
  isResponse := isResponse w
  canLog := canLog w
  isRecording := isRecording w
  wordCount := wordCount w

/-! ### FunctionWord (30_encoding.md R94, R95; 40_codec.md R150, R151) -/

/-- The function code, `w[12:10]`. -/
def funcCode (w : Word) : BitVec 3 := w.extractLsb' 10 3

/-- `FunctionName`: the name of a function code (30_encoding.md R95); every 3-bit value names one. -/
def FunctionName.ofCode (c : BitVec 3) : FunctionName :=
  match c.toNat with
  | 0 => .normal
  | 1 => .o2Tenths
  | 2 => .calibratingAir
  | 3 => .calRequired
  | 4 => .warmup
  | 5 => .calibratingHeat
  | 6 => .error
  | _ => .reserved

/-- The code of a function name (30_encoding.md R95). -/
def FunctionName.code : FunctionName → BitVec 3
  | .normal => 0
  | .o2Tenths => 1
  | .calibratingAir => 2
  | .calRequired => 3
  | .warmup => 4
  | .calibratingHeat => 5
  | .error => 6
  | .reserved => 7

/-- The function a word names by its bits 12:10. -/
def functionOf (w : Word) : FunctionName := .ofCode (funcCode w)

/-- `af_raw = (w[8] << 7) | w[6:0]`, 8 bits (40_codec.md R150). -/
def afRaw (w : Word) : BitVec 8 := w.extractLsb' 8 1 ++ w.extractLsb' 0 7

/-- The fields of `FUNC_DECODE` (40_codec.md R150). -/
def funcDecode (w : Word) : FunctionView where
  s15 := w.extractLsb' 15 1
  s14 := w.extractLsb' 14 1
  s13 := w.extractLsb' 13 1
  func := w.extractLsb' 10 3
  s9 := w.extractLsb' 9 1
  afHigh := w.extractLsb' 8 1
  mark := w.extractLsb' 7 1
  afLow := w.extractLsb' 0 7

/-- `FUNC_ENCODE` (40_codec.md R151). -/
def funcEncode (f : FunctionView) : Word :=
  f.s15 ++ f.s14 ++ f.s13 ++ f.func ++ f.s9 ++ f.afHigh ++ f.mark ++ f.afLow

/-! ### LambdaWord (30_encoding.md R96; 40_codec.md R153, R154) -/

/-- `lambda_raw = (w[13:8] << 7) | w[6:0]`, 13 bits. -/
def lambdaRaw (w : Word) : BitVec 13 := w.extractLsb' 8 6 ++ w.extractLsb' 0 7

/-- The fields of `LAMBDA_DECODE` (40_codec.md R153). -/
def lambdaDecode (w : Word) : LambdaView where
  s15 := w.extractLsb' 15 1
  s14 := w.extractLsb' 14 1
  high := w.extractLsb' 8 6
  s7 := w.extractLsb' 7 1
  low := w.extractLsb' 0 7

/-- `LAMBDA_ENCODE` (40_codec.md R154). -/
def lambdaEncode (l : LambdaView) : Word := l.s15 ++ l.s14 ++ l.high ++ l.s7 ++ l.low

/-! ### BatteryWord (30_encoding.md R97; 40_codec.md R156, R157) -/

/-- `battery_raw = (w[10:8] << 7) | w[6:0]`, 10 bits. No voltage is computed from it (41_derived.md R176). -/
def batteryRaw (w : Word) : BitVec 10 := w.extractLsb' 8 3 ++ w.extractLsb' 0 7

/-- The fields of `BATT_DECODE` (40_codec.md R156). -/
def battDecode (w : Word) : BatteryView where
  s15 := w.extractLsb' 15 1
  s14 := w.extractLsb' 14 1
  div := w.extractLsb' 11 3
  high := w.extractLsb' 8 3
  s7 := w.extractLsb' 7 1
  low := w.extractLsb' 0 7

/-- `BATT_ENCODE` (40_codec.md R157). -/
def battEncode (b : BatteryView) : Word := b.s15 ++ b.s14 ++ b.div ++ b.high ++ b.s7 ++ b.low

/-! ### AuxWord (30_encoding.md R98; 40_codec.md R159, R160) -/

/-- `aux_raw = (w[10:8] << 7) | w[6:0]`, 10 bits. -/
def auxRaw (w : Word) : BitVec 10 := w.extractLsb' 8 3 ++ w.extractLsb' 0 7

/-- The fields of `AUX_DECODE` (40_codec.md R159). -/
def auxDecode (w : Word) : AuxView where
  s := w.extractLsb' 11 5
  high := w.extractLsb' 8 3
  s7 := w.extractLsb' 7 1
  low := w.extractLsb' 0 7

/-- `AUX_ENCODE` (40_codec.md R160). -/
def auxEncode (a : AuxView) : Word := a.s ++ a.high ++ a.s7 ++ a.low

/-! ### Positional classes (30_encoding.md R100) -/

/-- The LM-1 test on body word 0: `(w & LM_MASK) != 0`. -/
def hasLmMarker (lmMask w : Word) : Bool := w &&& lmMask ≠ 0

/-- The function-marker test on body word 0: `(w & 0x0080) == 0x0080`. -/
def hasFunctionMarker (w : Word) : Bool := w &&& 0x0080#16 = 0x0080#16

/-- The battery test on body word 2: `(w & 0x3800) != 0`. -/
def hasDivider (w : Word) : Bool := w &&& 0x3800#16 ≠ 0

/-- Whether body word 0 is a FunctionWord: the LM-1 test is made first (90_conflicts.md C7). -/
def isFunctionWord0 (lmMask w : Word) : Bool := !hasLmMarker lmMask w && hasFunctionMarker w

/-- The class of body word `w` at a place (30_encoding.md R100). -/
def wordClass (lmMask : Word) (pl : Place) (w : Word) : WordClass :=
  if pl.pos = 0 then
    if hasLmMarker lmMask w then .lm1 else if hasFunctionMarker w then .function else .aux
  else if pl.afterFunction = true ∧ pl.pos = 1 then .lambda
  else if pl.afterFunction = true ∧ pl.pos = 2 ∧ hasDivider w = true then .battery
  else .aux

end Sys2Proof
end

