-- ==== Sys2Proof/Machine/Float.lean ====
section
/-! DEFINITION. IEEE 754 binary64 as the block delivers it (00_scope.md R18, D13): round to nearest, ties to
even, of an exact non-negative rational. No result of the block is negative, infinite or a NaN, so values are
held as the 64 bits of a non-negative number (log 20). -/

namespace Sys2Proof

/-- A binary64 value as its 64 bits. -/
abbrev F64 := BitVec 64

/-- The quotient `a / b` rounded to the nearest natural number, ties to even. -/
def roundNearestEven (a b : Nat) : Nat :=
  if 2 * (a % b) < b then a / b
  else if b < 2 * (a % b) then a / b + 1
  else a / b + a / b % 2

/-- The exponent step of `p / q`: 0 for a value below 2^-1021, and one more for each power of two from there.
The unit in the last place at step `t` is 2^(t - 1074). -/
def expStep (p q : Nat) : Nat := Nat.log2 (p * 2 ^ 1022 / q)

/-- The bits of positive infinity, which no result of the block reaches. -/
def F64.infBits : Nat := 0x7FF0000000000000

/-- `fl64(p / q)` for naturals, `q` not 0: the nearest binary64 value, ties to even (00_scope.md R18). The
exponent field and the significand's rounding carry are one sum: the step times 2^52, plus the rounded
significand with its leading bit. -/
def fl64 (p q : Nat) : F64 :=
  BitVec.ofNat 64
    (min F64.infBits (expStep p q * 2 ^ 52 + roundNearestEven (p * 2 ^ 1074) (q * 2 ^ expStep p q)))

/-- The exponent field of a non-negative binary64 value. -/
def F64.expField (x : F64) : Nat := (x.extractLsb' 52 11).toNat

/-- The fraction field of a binary64 value. -/
def F64.fraction (x : F64) : Nat := (x.extractLsb' 0 52).toNat

/-- The exact value of a non-negative finite binary64, in units of 2^-1074. -/
def F64.scaled (x : F64) : Nat :=
  if x.expField = 0 then x.fraction else (2 ^ 52 + x.fraction) * 2 ^ (x.expField - 1)

/-- The unit in which `F64.scaled` counts, as a denominator. -/
def F64.unitDen : Nat := 2 ^ 1074

/-- `fl64` of a natural number. -/
def F64.ofNat (n : Nat) : F64 := fl64 n 1

/-- `fl64(x / n)`: a binary64 divided by a natural number that is itself a binary64, rounded once. -/
def F64.divNat (x : F64) (n : Nat) : F64 := fl64 x.scaled (F64.unitDen * n)

/-- `fl64(n * x)`: a natural number that is itself a binary64 times a binary64, rounded once. -/
def F64.natMul (n : Nat) (x : F64) : F64 := fl64 (n * x.scaled) F64.unitDen

/-- The binary64 nearest to 0.10, as 41_derived.md R173 gives its bits. -/
def F64.tenth : F64 := 0x3FB999999999999A#64

/-- +0.0. -/
def F64.zero : F64 := 0x0000000000000000#64

end Sys2Proof
end

