-- ==== Sys2Proof/Machine/Results.lean ====
section
/-! DEFINITION. What the block hands over: error codes (60_exceptions.md R301), the packet (10_state.md R41),
and the typed outputs of the query port (10_state.md R54). -/

namespace Sys2Proof

/-- The errors of 60_exceptions.md R301, by name. -/
inductive ErrorKind where
  | none | invalidHeader | streamEnded | syncTimeout | truncatedStream | unsupportedVariant
  | functionNotNormal | noPacket | illegalQuery
  deriving DecidableEq, Repr

/-- The 4-bit code of an error (60_exceptions.md R301); 9 to 15 are reserved and never raised. -/
def ErrorKind.code : ErrorKind → BitVec 4
  | .none => 0
  | .invalidHeader => 1
  | .streamEnded => 2
  | .syncTimeout => 3
  | .truncatedStream => 4
  | .unsupportedVariant => 5
  | .functionNotNormal => 6
  | .noPacket => 7
  | .illegalQuery => 8

/-- `ERR_INFO`, the record `{off, detail}` (10_state.md R42). -/
structure ErrInfo where
  off : Pos
  detail : BitVec 32
  deriving DecidableEq, Repr

/-- The kind tag of a body word (10_state.md R41). -/
inductive Kind where
  | function | lambda | battery | aux
  deriving DecidableEq, Repr

/-- The 2-bit code of a kind: FUNCTION 0, LAMBDA 1, BATTERY 2, AUX 3 (10_state.md R41). -/
def Kind.code : Kind → BitVec 2
  | .function => 0
  | .lambda => 1
  | .battery => 2
  | .aux => 3

/-- The packet register's record (10_state.md R41): header word, its offset, body word count, and per body
word the word, its kind and its aux channel (0 for a word that is no AuxWord). -/
structure Packet where
  hdr : Word
  off : Pos
  n : BitVec 8
  body : List Word
  kind : List Kind
  chan : List (BitVec 8)
  deriving DecidableEq, Repr

/-- The units of an air/fuel value (41_derived.md R174): "ratio", "%", "count". -/
inductive Units where
  | ratio | percent | count
  deriving DecidableEq, Repr

/-- The text of the units (41_derived.md R174). -/
def Units.text : Units → String
  | .ratio => "ratio"
  | .percent => "%"
  | .count => "count"

/-- `q_result`: a typed record per operation (10_state.md R54, 30_encoding.md R111). -/
inductive QueryResult where
  /-- `NONE`: undefined, unavailable or unknown (00_scope.md R19); also the result beside an error (log 27). -/
  | none
  /-- HDR_VALIDATE answers OK. -/
  | ok
  /-- A header field view. -/
  | header (v : HeaderView)
  /-- The header summary. -/
  | summary (v : Summary)
  /-- The word an encode answers. -/
  | word (w : Word)
  /-- A word count, 0 to 255. -/
  | count (n : BitVec 8)
  /-- A function field view, with the function's name and `af_raw`. -/
  | function (v : FunctionView) (name : FunctionName) (afRaw : BitVec 8)
  /-- A lambda field view and `lambda_raw`. -/
  | lambda (v : LambdaView) (raw : BitVec 13)
  /-- A battery field view and `battery_raw`. -/
  | battery (v : BatteryView) (raw : BitVec 10)
  /-- An aux field view and `aux_raw`. -/
  | aux (v : AuxView) (raw : BitVec 10)
  /-- A binary64. -/
  | real (x : F64)
  /-- An integer: an rpm (14 bits, 0 to 10230) or an unchanged air/fuel value. -/
  | int (n : BitVec 14)
  /-- The units of an air/fuel value. -/
  | units (u : Units)
  /-- The packet's wire words. -/
  | words (ws : List Word)
  deriving DecidableEq, Repr

/-- `q_err`: an error code or none, with its payload (60_exceptions.md R301). -/
inductive QueryError where
  | none
  | invalidHeader (bit : Nat)
  /-- `FunctionNotNormal(f)`; `none` is `ABSENT`, no FunctionWord in the packet. -/
  | functionNotNormal (f : Option FunctionName)
  | noPacket
  | illegalQuery
  deriving DecidableEq, Repr

/-- The error a query delivers (60_exceptions.md R301). -/
def QueryError.kind : QueryError → ErrorKind
  | .none => .none
  | .invalidHeader _ => .invalidHeader
  | .functionNotNormal _ => .functionNotNormal
  | .noPacket => .noPacket
  | .illegalQuery => .illegalQuery

/-- The payload of a query error (60_exceptions.md R301): the offending bit, or the function code 0 to 7, or
8 for ABSENT; 0 where the table gives none. -/
def QueryError.detail : QueryError → Nat
  | .invalidHeader bit => bit
  | .functionNotNormal (some f) => f.code.toNat
  | .functionNotNormal Option.none => 8
  | .none => 0
  | .noPacket => 0
  | .illegalQuery => 0

/-- What a query answers: `q_result` and `q_err`. -/
structure QueryOut where
  result : QueryResult
  err : QueryError
  deriving DecidableEq, Repr

/-- A query that answers a result and no error. -/
def QueryOut.answer (r : QueryResult) : QueryOut := { result := r, err := .none }

/-- A query that fails: the error on `q_err`, and `q_result` = NONE. For IllegalQuery the spec states that NONE
(44_interface.md R282). DESIGN CHOICE: beside InvalidHeader, FunctionNotNormal and NoPacket the spec states no
`q_result`, and the model answers NONE there too (log 27). -/
def QueryOut.fail (e : QueryError) : QueryOut := { result := .none, err := e }

end Sys2Proof
end

