-- ==== Sys2Proof/Machine/Classify.lean ====
section
/-! DEFINITION. The classification pass (43_assembler.md R236): combinational, with no state of its own
(10_state.md R31). It answers a packet to emit or an error to raise. -/

namespace Sys2Proof

/-- What classification ends in: `emit P` or `raise E(info)` (00_scope.md R17). -/
inductive Verdict where
  | packet (P : Packet)
  | error (e : ErrorKind) (info : ErrInfo)
  deriving DecidableEq, Repr

/-- The kinds of the words before the aux words, once word 0 is a FunctionWord (43_assembler.md R236): the
battery test is made only at position 2. -/
def frontKinds (body : List Word) : List Kind :=
  match body with
  | _ :: _ :: w2 :: _ => if hasDivider w2 then [.function, .lambda, .battery] else [.function, .lambda]
  | _ => [.function, .lambda]

/-- Channel numbers 1, 2, 3 … of `m` aux words in arrival order. -/
def auxChannels (m : Nat) : List (BitVec 8) := (List.range m).map fun c => BitVec.ofNat 8 (c + 1)

/-- The packet of a body whose first words have the kinds `front` and whose other words are aux words. -/
def packetOf (hdr : Word) (off : Pos) (body : List Word) (front : List Kind) : Packet where
  hdr := hdr
  off := off
  n := BitVec.ofNat 8 body.length
  body := body
  kind := front ++ List.replicate (body.length - front.length) .aux
  chan := List.replicate front.length 0 ++ auxChannels (body.length - front.length)

/-- `CLASSIFY(hdr, off, body)` (43_assembler.md R236): the empty packet; the LM-1 test, made first; a
FunctionWord needs a word 1; every remaining word is an AuxWord. -/
def classify (lmMask hdr : Word) (off : Pos) (body : List Word) : Verdict :=
  match body with
  | [] => .packet (packetOf hdr off [] [])
  | w0 :: _ =>
    if hasLmMarker lmMask w0 then .error .unsupportedVariant { off := off, detail := w0.setWidth 32 }
    else if hasFunctionMarker w0 then
      if body.length < 2 then
        .error .truncatedStream { off := off, detail := BitVec.ofNat 32 (2 * body.length) }
      else .packet (packetOf hdr off body (frontKinds body))
    else .packet (packetOf hdr off body [])

end Sys2Proof
end

