-- ==== Sys2Proof/Machine/State.lean ====
section
/-! DEFINITION. The machine's state as plain data: the decoder's sixteen elements (10_state.md R30), the
parameters it was instantiated at, and the agents around it: the byte source's answers to come and the order
in which the agents move (00_scope.md R21). The reset state (10_state.md R60) and the reasons a step stops. -/

namespace Sys2Proof.Machine

open Sys2Proof

/-- An answer of the byte source to one read request: `Byte(b)` or `EOS` (00_scope.md R16). -/
inductive Answer where
  | byte (b : Byte)
  | eos
  deriving DecidableEq, Repr

/-- The block's memory: BODYBUF as (index, word) pairs, indices strictly rising (10_state.md R38). An index
that is not listed holds no defined value. -/
abbrev Memory := List (Nat × Word)

/-- The state machine register `ST`, 2 bits (10_state.md R31). -/
inductive DecState where
  /-- 0: no operation in progress. -/
  | idle
  /-- 1: the Frame Scanner's SEEKING. -/
  | seek
  /-- 2: SYNCED, reading body bytes. -/
  | body
  /-- 3: no legal value, never reached; an operation that finds it faults. -/
  | illegal
  deriving DecidableEq, Repr

/-- The 2-bit value of `ST` (10_state.md R31). -/
def DecState.code : DecState → BitVec 2
  | .idle => 0
  | .seek => 1
  | .body => 2
  | .illegal => 3

/-- The decoder's state: exactly the elements of 10_state.md R30. -/
structure Decoder where
  /-- `ST` (R31). -/
  st : DecState
  /-- `SR`, the shift register (R34). -/
  sr : Word
  /-- `SEEKCNT`, bytes consumed in the current seek, saturating (R32). -/
  seekCnt : Count
  /-- `POS`, bytes consumed since reset, wrapping (R33, R36). -/
  pos : Pos
  /-- `HDR`, the header word of the last successful scan (R35). -/
  hdr : Word
  /-- `HDR_OFF`, the byte offset where that header started (R35). -/
  hdrOff : Pos
  /-- `BCNT`, body bytes received for the current frame (R37). -/
  bcnt : BitVec 9
  /-- `HIBYTE`, the high byte of a body word whose low byte is to come (R37). -/
  hibyte : Byte
  /-- `BODYBUF` (R38). -/
  bodyBuf : Memory
  /-- `BUDGET_EN` (R39). -/
  budgetEn : Bool
  /-- `MAX_BYTES` (R39). -/
  maxBytes : Count
  /-- `PKT_VALID` (R40). -/
  pktValid : Bool
  /-- `PKT` (R41). -/
  pkt : Packet
  /-- `ERR_VALID` (R42). -/
  errValid : Bool
  /-- `ERR_CODE` (R42, 60_exceptions.md R301). -/
  errCode : BitVec 4
  /-- `ERR_INFO` (R42). -/
  errInfo : ErrInfo
  deriving DecidableEq, Repr

/-- A turn of one agent (00_scope.md R21); the spec fixes no order between the agents (70_reset_and_hazards.md
R350), so a list of turns in State says who moves next (log 1). -/
inductive Turn where
  /-- The host drives the command port: `cmd_valid` with `cmd[3:0]` and `cmd_arg` (10_state.md R51). -/
  | command (cmd : BitVec 4) (arg : Count)
  /-- The host samples the query port: `q_sel`, `q_word`, `q_fields` (10_state.md R54). -/
  | query (sel : BitVec 5) (word fields : Word)
  /-- The reset input is asserted (70_reset_and_hazards.md R340). -/
  | resetInput
  /-- The decoder takes its next step, if one is due and the byte source answers. -/
  | decoder
  /-- The byte source answers a request that a reset withdrew (44_interface.md R274). -/
  | lateAnswer
  deriving DecidableEq, Repr

/-- The machine: one decoder, its parameters, and the agents around it. -/
structure State where
  /-- The instantiation (00_scope.md R11); no step changes it (70_reset_and_hazards.md R342). -/
  params : Params
  /-- The decoder's own state (10_state.md R30). -/
  dec : Decoder
  /-- The byte source's answers to come, in order; empty while it is silent (10_state.md R50, log 2). -/
  source : List Answer
  /-- The agents' turns to come (log 1). -/
  turns : List Turn
  /-- Read requests that a reset withdrew and the source has not answered (44_interface.md R274, log 14). -/
  withdrawn : Nat
  /-- Whether a host command was ever ignored because BUSY was 1 (93_implementation_defined.md I13, log 15). -/
  hostFault : Bool
  /-- What the query port answered last (10_state.md R54, log 9). -/
  qOut : QueryOut
  deriving DecidableEq, Repr

/-- Why the machine stops with a fault. Every one is safe: the model stops where the spec gives no step. -/
inductive Fault where
  /-- `ST` = 3 found. Raised by every operation that reads `ST` to decide what it does; the spec asks for it
  (10_state.md R31, I11). Safe. -/
  | illegalState
  /-- SCAN_BYTE asked for outside SEEK, BODY_BYTE outside BODY, or CLASSIFY outside the step it belongs to:
  the machine takes no such step (42_scanner.md R202, 43_assembler.md R231, R236). Raised by exec only, never
  by a step of the machine. Safe. -/
  | stepNotDue
  /-- A word class asked for while the bytes at the window, or at the place in the body, do not form that word
  of that class (30_encoding.md R91, R100). Raised by exec only, never by a step of the machine. Safe. -/
  | wordNotInContext
  /-- A BODYBUF entry with no defined value was read; the spec asks for it (10_state.md R38, I12). Raised by
  BODY_BYTE's last step. Safe. -/
  | bodyWordUndefined
  /-- `BCNT` is not below `2n` in BODY, where BODY_BYTE never reads (43_assembler.md R231). Safe. -/
  | bodyOverrun
  /-- `PKT_VALID` = 1 while PKT breaks the packet invariants (43_assembler.md R237). Raised by PKT_AFR and
  PKT_WORDS. Safe. -/
  | packetMalformed
  /-- The fields of PKT read on the packet output while `PKT_VALID` = 0; the spec asks for it (10_state.md R60, I12). Raised
  by the packet output. Safe. -/
  | packetUnreadable
  /-- An error code 9 to 15 found; the spec asks for it (I19). Raised by the error output. Safe. -/
  | illegalErrorCode
  /-- The byte source answered without a request, which it must not do (70_reset_and_hazards.md R346). Raised
  by a late answer with no withdrawn request. Safe. -/
  | answerWithoutRequest
  deriving DecidableEq, Repr

/-- Why the model gives an operation no meaning. -/
inductive Refusal where
  /-- The operation has no meaning yet. Raised by exec's arms only. Safe. -/
  | notModelled (mnemonic : String)
  deriving DecidableEq, Repr

/-- PKT at reset: the spec gives no value and makes it unreadable (10_state.md R60). DESIGN CHOICE: every
field zero, every list empty (log 5). -/
def Packet.atReset : Packet := { hdr := 0, off := 0, n := 0, body := [], kind := [], chan := [] }

/-- The decoder after reset (10_state.md R60); BODYBUF with no value in any entry. -/
def Decoder.reset : Decoder where
  st := .idle
  sr := 0
  seekCnt := 0
  pos := 0
  hdr := 0
  hdrOff := 0
  bcnt := 0
  hibyte := 0
  bodyBuf := []
  budgetEn := false
  maxBytes := 0
  pktValid := false
  pkt := Packet.atReset
  errValid := false
  errCode := 0
  errInfo := { off := 0, detail := 0 }

/-- The machine right after reset: the decoder as 10_state.md R60 says, at the spec values of the parameters,
with no answer of the byte source given and no turn taken (log 4). -/
def State.reset : State where
  params := Params.spec
  dec := Decoder.reset
  source := []
  turns := []
  withdrawn := 0
  hostFault := false
  qOut := { result := .none, err := .none }

end Sys2Proof.Machine
end

