-- ==== Sys2Proof/Machine/Flags.lean ====
section
/-! DEFINITION. The 1-bit conditions of the block. It has no condition codes (10_state.md R43): its flags are
the status values BUSY, PKT_VALID, ERR_VALID and BUDGET_EN, and the tests of the budget and of the byte
port. The header's flags are fields of the header word (`isData`, `canLog`, `isRecording` of Codec). -/

namespace Sys2Proof.Machine

open Sys2Proof

/-- `BUSY` = (`ST` != `IDLE`) (10_state.md R55). -/
def Decoder.busy (d : Decoder) : Bool := d.st ≠ .idle

/-- The budget test of a seek, made before each read: `BUDGET_EN == 1 and SEEKCNT >= MAX_BYTES` (42_scanner.md
R202, R205). -/
def Decoder.budgetSpent (d : Decoder) : Bool := d.budgetEn && decide (d.maxBytes.toNat ≤ d.seekCnt.toNat)

/-- `n`, the body word count that the latched header declares (30_encoding.md R92). -/
def Decoder.bodyWords (d : Decoder) : Nat := (wordCount d.hdr).toNat

/-- Whether the next body byte is the low byte of its word: `BCNT[0]` (43_assembler.md R231). -/
def Decoder.lowByteNext (d : Decoder) : Bool := d.bcnt.getLsbD 0

/-- Whether the decoder has a read request at the byte source (10_state.md R50): in BODY, and in SEEK unless
the budget is spent. -/
def Decoder.requestOutstanding (d : Decoder) : Bool :=
  match d.st with
  | .idle => false
  | .seek => !d.budgetSpent
  | .body => true
  | .illegal => false

end Sys2Proof.Machine
end

