-- ==== Sys2Proof/Machine/Ops.lean ====
section
/-! DEFINITION. The shared operations over the body buffer, the byte source and the result registers: every
meaning is written with these. -/

namespace Sys2Proof.Machine

open Sys2Proof

/-! ### BODYBUF (10_state.md R38) -/

/-- The word at an index of the buffer; none where the entry has no defined value. -/
def Memory.read : Memory → Nat → Option Word
  | [], _ => none
  | (j, w) :: m, i => if i = j then some w else Memory.read m i

/-- The buffer with word `w` at index `i`, indices kept rising. -/
def Memory.write : Memory → Nat → Word → Memory
  | [], i, w => [(i, w)]
  | (j, v) :: m, i, w =>
    if i < j then (i, w) :: (j, v) :: m
    else if i = j then (i, w) :: m
    else (j, v) :: Memory.write m i w

/-- Whether every index of the list is above `lo` and the indices rise. -/
def Memory.risesFrom : Nat → Memory → Bool
  | _, [] => true
  | lo, (j, _) :: m => decide (lo ≤ j) && Memory.risesFrom (j + 1) m

/-- The canonical form of the buffer: indices strictly rising, all within its 255 entries. An entry that is
not listed has no value, so no listed entry equals it. -/
def Memory.wf (m : Memory) : Bool := m.risesFrom 0 && m.all fun e => decide (e.1 < Config.bodyCap)

/-- `BODYBUF[i]` as the block may read it: entries at an index not below the word count of the current frame
hold no defined value (10_state.md R38). -/
def Decoder.bodyWord (d : Decoder) (i : Nat) : Option Word :=
  if i < d.bodyWords then d.bodyBuf.read i else none

/-- `BODYBUF[0..k-1]`, none where an entry has no defined value. -/
def Decoder.bodyPrefix (d : Decoder) : Nat → Option (List Word)
  | 0 => some []
  | k + 1 =>
    match d.bodyPrefix k, d.bodyWord k with
    | some ws, some w => some (ws ++ [w])
    | _, _ => none

/-! ### The byte source (00_scope.md R16, 10_state.md R50) -/

/-- What `ReadByte()` comes to, with the state after it. -/
inductive ReadResult where
  /-- The source withholds its answer: the decoder stays as it is (42_scanner.md R209). -/
  | silent
  /-- EOS: nothing is consumed (00_scope.md R16). -/
  | eos (s : State)
  /-- `Byte(b)`: `POS` has counted it (10_state.md R36). -/
  | byte (b : Byte) (s : State)
  deriving DecidableEq, Repr

/-- `ReadByte()` (00_scope.md R16): the source's next answer; a byte increments `POS`, wrapping. -/
def State.readByte (s : State) : ReadResult :=
  match s.source with
  | [] => .silent
  | .eos :: rest => .eos { s with source := rest }
  | .byte b :: rest => .byte b { s with source := rest, dec := { s.dec with pos := s.dec.pos + 1 } }

/-- `min(SEEKCNT + 1, 2^CNT_WIDTH - 1)` (42_scanner.md R202). -/
def satIncr (c : Count) : Count := if c = BitVec.allOnes 32 then c else c + 1

/-! ### Ending an operation (00_scope.md R17, 60_exceptions.md R300) -/

/-- `raise E(info)`: the one way an error of a decode is delivered. It writes the error registers and returns
`ST` to IDLE; PKT and everything else stay. There is no vector, no saved counter and no return operation
(60_exceptions.md R312): the host resumes with DECODE_NEXT, whose writes are `Decoder.startSeek`. -/
def Decoder.raise (e : ErrorKind) (info : ErrInfo) (d : Decoder) : Decoder :=
  { d with errValid := true, errCode := e.code, errInfo := info, st := .idle }

/-- `emit P`: writes the packet register whole and returns `ST` to IDLE. -/
def Decoder.emit (P : Packet) (d : Decoder) : Decoder := { d with pktValid := true, pkt := P, st := .idle }

/-- Ends an operation as classification decided. -/
def Decoder.deliver (v : Verdict) (d : Decoder) : Decoder :=
  match v with
  | .packet P => d.emit P
  | .error e info => d.raise e info

/-- The writes of an accepted DECODE_NEXT (44_interface.md R271): the result registers are cleared, the seek
starts afresh; `POS`, `HDR`, `HDR_OFF` and the budget stay. -/
def Decoder.startSeek (d : Decoder) : Decoder :=
  { d with
    pktValid := false
    errValid := false
    errCode := ErrorKind.none.code
    errInfo := { off := 0, detail := 0 }
    sr := 0
    seekCnt := 0
    bcnt := 0
    st := .seek }

/-- The state with its decoder changed and nothing around it. -/
def State.mapDec (f : Decoder → Decoder) (s : State) : State := { s with dec := f s.dec }

/-! ### The host's side -/

/-- A command the block ignores because BUSY = 1 (44_interface.md R276): it changes nothing in the block. The
model records that the host issued it (I13). -/
def State.ignoreCommand (s : State) : State := { s with hostFault := true }

/-- A command that must find the block idle: ignored while BUSY = 1 (44_interface.md R276), and a fault of the
model where `ST` = 3 (10_state.md R31). -/
def State.whenIdle (s : State) (f : Decoder → Decoder) : Host.Outcome State Fault Refusal :=
  match s.dec.st with
  | .idle => .next (s.mapDec f)
  | .seek => .next s.ignoreCommand
  | .body => .next s.ignoreCommand
  | .illegal => .fault .illegalState

/-- A reserved command code: no effect in any state (44_interface.md R275). The model records it where it
came while BUSY = 1 (I13). -/
def State.reservedCommand (s : State) : State := if s.dec.busy then s.ignoreCommand else s

/-- A query answers on the query port and changes no state of the block (44_interface.md R283). -/
def State.answerQuery (o : QueryOut) (s : State) : State := { s with qOut := o }

/-- Reset, by the command or by the reset input (70_reset_and_hazards.md R340): every element of the decoder
takes its reset value. A read request at the byte source is withdrawn; its answer may still come (R346). -/
def State.resetDecoder (s : State) : State :=
  { s with
    dec := Decoder.reset
    withdrawn := if s.dec.requestOutstanding then s.withdrawn + 1 else s.withdrawn }

/-- The source answers a request that a reset withdrew: the answer is taken from the source and discarded; the
decoder does not count it (44_interface.md R274, 70_reset_and_hazards.md R346). -/
def State.discardAnswer (s : State) : State :=
  match s.source with
  | [] => s
  | _ :: rest => { s with source := rest, withdrawn := s.withdrawn - 1 }

end Sys2Proof.Machine
end

