-- ==== Sys2Proof/Machine/Operands.lean ====
section
/-! DEFINITION. The operands of the internal steps and of the word classes, as they stand in the state: the
byte that the source answers next, the scan window or the body word that this byte completes, and the place
of that word in its frame (30_encoding.md R100). Commands and queries carry their operands in their bits
(Decode). -/

namespace Sys2Proof.Machine

open Sys2Proof

/-- The byte that the source answers next, if its next answer is a byte. -/
def State.nextByte (s : State) : Option Byte :=
  match s.source with
  | .byte b :: _ => some b
  | .eos :: _ => none
  | [] => none

/-- The scan window after the next byte: `{SR[7:0], b}` (42_scanner.md R202). -/
def State.pendingWindow (s : State) : Option Word :=
  match s.nextByte with
  | some b => some (scanWindow s.dec.sr b)
  | none => none

/-- The body word that the next byte completes: `{HIBYTE, b}` where `BCNT` is odd (43_assembler.md R231). -/
def State.pendingBodyWord (s : State) : Option Word :=
  if s.dec.lowByteNext then
    match s.nextByte with
    | some b => some (Word.ofBytes s.dec.hibyte b)
    | none => none
  else none

/-- The index of the body word that is being received: `BCNT >> 1`. -/
def Decoder.bodyIndex (d : Decoder) : Nat := d.bcnt.toNat / 2

/-- The place of the body word that is being received: its index, and whether word 0, received before it, is a
FunctionWord (30_encoding.md R100). -/
def State.bodyPlace (s : State) : Place where
  pos := s.dec.bodyIndex
  afterFunction :=
    match s.dec.bodyWord 0 with
    | some w0 => isFunctionWord0 s.params.lmMask w0
    | none => false

end Sys2Proof.Machine
end

