-- ==== Sys2Proof/Machine/Assembler.lean ====
section
/-! DEFINITION. The Packet Assembler (43_assembler.md): BODY_BYTE, the body word classes, each of which is the
BODY_BYTE step that completes a word of that class, and CLASSIFY. -/

namespace Sys2Proof.Machine

open Sys2Proof

/-- What the assembler does with a byte the source answered (43_assembler.md R231); none where a BODYBUF entry
it reads has no defined value. The last word is passed to classification as the step-local `wd`, not read
back from BODYBUF (90_conflicts.md C10). -/
def Decoder.bodyTaken (par : Params) (b : Byte) (d : Decoder) : Option Decoder :=
  let counted : Decoder := { d with bcnt := d.bcnt + 1 }
  if d.lowByteNext then
    let wd := Word.ofBytes d.hibyte b
    let stored : Decoder := { counted with bodyBuf := d.bodyBuf.write d.bodyIndex wd }
    if d.bcnt.toNat + 1 = 2 * d.bodyWords then
      match d.bodyPrefix (d.bodyWords - 1) with
      | some ws => some (stored.deliver (classify par.lmMask d.hdr d.hdrOff (ws ++ [wd])))
      | none => none
    else some stored
  else some { counted with hibyte := b }

/-- One body step in BODY (43_assembler.md R231); it never reads when `BCNT` has reached `2n`. -/
def State.bodyStep (s : State) : Host.Outcome State Fault Refusal :=
  if s.dec.bcnt.toNat < 2 * s.dec.bodyWords then
    match s.readByte with
    | .silent => .next s
    | .eos s' =>
      .next (s'.mapDec (Decoder.raise .truncatedStream
        { off := s.dec.hdrOff, detail := s.dec.bcnt.setWidth 32 }))
    | .byte b s' =>
      match s'.dec.bodyTaken s.params b with
      | some d => .next { s' with dec := d }
      | none => .fault .bodyWordUndefined
  else .fault .bodyOverrun

/-- BODY_BYTE (43_assembler.md R231). -/
def execBodyByte (s : State) : Host.Outcome State Fault Refusal :=
  match s.dec.st with
  | .body => s.bodyStep
  | .idle => .fault .stepNotDue
  | .seek => .fault .stepNotDue
  | .illegal => .fault .illegalState

/-- The BODY_BYTE step in which the body word `w` of class `c` is completed (30_encoding.md R100). -/
def State.completeWord (s : State) (c : WordClass) (w : Word) : Host.Outcome State Fault Refusal :=
  if s.pendingBodyWord = some w ∧ wordClass s.params.lmMask s.bodyPlace w = c then execBodyByte s
  else .fault .wordNotInContext

/-- LM1_WORD0 (43_assembler.md R236): word 0 arrives with the LM-1 marker; the frame fails with
UnsupportedVariant when its last byte arrives. -/
def execLm1Word0 (w : Word) (s : State) : Host.Outcome State Fault Refusal := s.completeWord .lm1 w

/-- FUNCTION_WORD (30_encoding.md R94): word 0 arrives with the function marker. -/
def execFunctionWord (w : Word) (s : State) : Host.Outcome State Fault Refusal := s.completeWord .function w

/-- LAMBDA_WORD (30_encoding.md R96): word 1 arrives after a FunctionWord. -/
def execLambdaWord (w : Word) (s : State) : Host.Outcome State Fault Refusal := s.completeWord .lambda w

/-- BATTERY_WORD (30_encoding.md R97): word 2 arrives after a FunctionWord, with a divider. -/
def execBatteryWord (w : Word) (s : State) : Host.Outcome State Fault Refusal := s.completeWord .battery w

/-- AUX_WORD (30_encoding.md R98): any remaining word arrives. -/
def execAuxWord (w : Word) (s : State) : Host.Outcome State Fault Refusal := s.completeWord .aux w

/-- Whether CLASSIFY belongs to the step of a state (43_assembler.md R236): in SEEK for the empty body, in BODY
otherwise, on as many body words as the header declares. -/
def classifyDue (st : DecState) (hdr : Word) (body : List Word) : Bool :=
  decide (body.length = (wordCount hdr).toNat) && decide (st = if body = [] then .seek else .body)

/-- CLASSIFY(hdr, off, body) (43_assembler.md R236): ends the operation with the packet or the error. -/
def execClassify (hdr : Word) (off : Pos) (body : List Word) (s : State) :
    Host.Outcome State Fault Refusal :=
  if s.dec.st = .illegal then .fault .illegalState
  else if classifyDue s.dec.st hdr body then
    .next (s.mapDec (Decoder.deliver (classify s.params.lmMask hdr off body)))
  else .fault .stepNotDue

end Sys2Proof.Machine
end

