-- ==== Sys2Proof/Machine/Commands.lean ====
section
/-! DEFINITION. The host commands (44_interface.md R270 to R276). -/

namespace Sys2Proof.Machine

open Sys2Proof

/-- NOP (44_interface.md R270): no effect, accepted in every state. -/
def execNop (s : State) : Host.Outcome State Fault Refusal := .next s

/-- DECODE_NEXT (44_interface.md R271): a seek starts; ignored while busy. -/
def execDecodeNext (s : State) : Host.Outcome State Fault Refusal := s.whenIdle Decoder.startSeek

/-- SET_BUDGET k (44_interface.md R272): `BUDGET_EN <- 1; MAX_BYTES <- k`; ignored while busy. -/
def execSetBudget (k : Count) (s : State) : Host.Outcome State Fault Refusal :=
  s.whenIdle fun d => { d with budgetEn := true, maxBytes := k }

/-- CLEAR_BUDGET (44_interface.md R273): `BUDGET_EN <- 0`, `MAX_BYTES` keeps its value; ignored while busy. -/
def execClearBudget (s : State) : Host.Outcome State Fault Refusal :=
  s.whenIdle fun d => { d with budgetEn := false }

/-- RESET (44_interface.md R274): every element takes its reset value, in any state. -/
def execReset (s : State) : Host.Outcome State Fault Refusal := .next s.resetDecoder

/-- Reserved command code 0x4 (44_interface.md R275): no effect in any state. -/
def execReservedCmd4 (s : State) : Host.Outcome State Fault Refusal := .next s.reservedCommand

/-- Reserved command code 0x5 (44_interface.md R275): no effect in any state. -/
def execReservedCmd5 (s : State) : Host.Outcome State Fault Refusal := .next s.reservedCommand

/-- Reserved command code 0x6 (44_interface.md R275): no effect in any state. -/
def execReservedCmd6 (s : State) : Host.Outcome State Fault Refusal := .next s.reservedCommand

/-- Reserved command code 0x7 (44_interface.md R275): no effect in any state. -/
def execReservedCmd7 (s : State) : Host.Outcome State Fault Refusal := .next s.reservedCommand

/-- Reserved command code 0x8 (44_interface.md R275): no effect in any state. -/
def execReservedCmd8 (s : State) : Host.Outcome State Fault Refusal := .next s.reservedCommand

/-- Reserved command code 0x9 (44_interface.md R275): no effect in any state. -/
def execReservedCmd9 (s : State) : Host.Outcome State Fault Refusal := .next s.reservedCommand

/-- Reserved command code 0xA (44_interface.md R275): no effect in any state. -/
def execReservedCmdA (s : State) : Host.Outcome State Fault Refusal := .next s.reservedCommand

/-- Reserved command code 0xB (44_interface.md R275): no effect in any state. -/
def execReservedCmdB (s : State) : Host.Outcome State Fault Refusal := .next s.reservedCommand

/-- Reserved command code 0xC (44_interface.md R275): no effect in any state. -/
def execReservedCmdC (s : State) : Host.Outcome State Fault Refusal := .next s.reservedCommand

/-- Reserved command code 0xD (44_interface.md R275): no effect in any state. -/
def execReservedCmdD (s : State) : Host.Outcome State Fault Refusal := .next s.reservedCommand

/-- Reserved command code 0xE (44_interface.md R275): no effect in any state. -/
def execReservedCmdE (s : State) : Host.Outcome State Fault Refusal := .next s.reservedCommand

end Sys2Proof.Machine
end

