-- ==== Sys2Proof/Machine/Derived.lean ====
section
/-! DEFINITION. The derived values (41_derived.md): pure functions of a word, or of a packet. -/

namespace Sys2Proof

/-- `AUX_VOLTS` (41_derived.md R170): `fl64(fl64(raw * 5.0) / 1023)`, and +0.0 for raw 0. -/
def auxVolts (w : Word) : F64 :=
  if auxRaw w = 0 then F64.zero else F64.divNat (F64.ofNat ((auxRaw w).toNat * 5)) 1023

/-- `AUX_PERCENT` (41_derived.md R171): `fl64(raw / 1023)`, and +0.0 for raw 0. -/
def auxPercent (w : Word) : F64 :=
  if auxRaw w = 0 then F64.zero else fl64 (auxRaw w).toNat 1023

/-- `AUX_RPM` (41_derived.md R172): `aux_raw * 10`, an exact integer of 14 bits. -/
def auxRpm (w : Word) : BitVec 14 := (auxRaw w).setWidth 14 * 10

/-- `AF_VALUE` (41_derived.md R173): tenths for O2Tenths and Warmup, NONE for CalibratingAir, CalRequired and
Reserved, the raw integer unchanged otherwise. -/
def afValue (w : Word) : QueryResult :=
  match functionOf w with
  | .o2Tenths => .real (F64.natMul (afRaw w).toNat F64.tenth)
  | .warmup => .real (F64.natMul (afRaw w).toNat F64.tenth)
  | .calibratingAir => .none
  | .calRequired => .none
  | .reserved => .none
  | .normal => .int ((afRaw w).setWidth 14)
  | .calibratingHeat => .int ((afRaw w).setWidth 14)
  | .error => .int ((afRaw w).setWidth 14)

/-- `AF_UNITS` (41_derived.md R174): the explicit marker NONE where the units are not specified. -/
def afUnits (w : Word) : QueryResult :=
  match functionOf w with
  | .normal => .units .ratio
  | .o2Tenths => .units .percent
  | .warmup => .units .percent
  | .calibratingHeat => .units .count
  | .calibratingAir => .none
  | .calRequired => .none
  | .error => .none
  | .reserved => .none

/-- `AFR = (lambda_raw + 500) * air_fuel_value / 10000`, an exact integer product rounded once
(41_derived.md R175). -/
def afr (functionWord lambdaWord : Word) : F64 :=
  fl64 (((lambdaRaw lambdaWord).toNat + 500) * (afRaw functionWord).toNat) 10000

/-- The outcome of the AFR computation on a packet held (41_derived.md R175); `none` where the packet has a
FunctionWord at index 0 and lacks word 0 or word 1, which R237 excludes. -/
def packetAfr (P : Packet) : Option QueryOut :=
  if P.n = 0 ∨ P.kind.head? ≠ some .function then some (.fail (.functionNotNormal none))
  else
    match P.body with
    | [] => none
    | w0 :: rest =>
      if functionOf w0 ≠ .normal then some (.fail (.functionNotNormal (some (functionOf w0))))
      else
        match rest with
        | [] => none
        | w1 :: _ => some (.answer (.real (afr w0 w1)))

/-- A classified interpretation of one body word, decoded by the codec of its kind: the tagged variant
`SubPacket = Function | Lambda | Battery | Aux` (43_assembler.md R240). -/
inductive SubPacket where
  | function (v : FunctionView)
  | lambda (v : LambdaView)
  | battery (v : BatteryView)
  | aux (channel : BitVec 8) (v : AuxView)
  deriving DecidableEq, Repr

/-- Sub-packet `j`: the pair (`P.kind[j]`, `P.body[j]`) decoded by the codec of its kind (43_assembler.md
R240), with its channel where it is an AuxWord. -/
def subPacket (k : Kind) (w : Word) (c : BitVec 8) : SubPacket :=
  match k with
  | .function => .function (funcDecode w)
  | .lambda => .lambda (lambdaDecode w)
  | .battery => .battery (battDecode w)
  | .aux => .aux c (auxDecode w)

/-- The ordered sequence of a packet's sub-packets (43_assembler.md R240). -/
def Packet.subPackets (P : Packet) : List SubPacket :=
  (P.kind.zip (P.body.zip P.chan)).map fun x => subPacket x.1 x.2.1 x.2.2

/-- The packet's summary: `HDR_SUMMARY(P.hdr)` of its valid header (43_assembler.md R240). -/
def Packet.summary (P : Packet) : Summary := Sys2Proof.summary P.hdr

/-- The full wire representation of a packet, header and body (44_interface.md R280). -/
def Packet.words (P : Packet) : List Word := P.hdr :: P.body

end Sys2Proof
end

