-- ==== Sys2Proof/Machine/Queries.lean ====
section
/-! DEFINITION. The queries (30_encoding.md R111): each answers on the query port and changes no state of the
block (44_interface.md R283). A kind-specific query decodes its operand by the asked kind's layout, whatever
its classification (D28). -/

namespace Sys2Proof.Machine

open Sys2Proof

/-- A query that always answers a result. -/
def State.answer (r : QueryResult) (s : State) : Host.Outcome State Fault Refusal := .next (s.answerQuery (.answer r))

/-- HDR_VALIDATE w (40_codec.md R130): OK, or `InvalidHeader(bit)` on `q_err`. -/
def execHdrValidate (w : Word) (s : State) : Host.Outcome State Fault Refusal :=
  match hdrValidate s.params.hdrMatch w with
  | .ok => s.answer .ok
  | .invalid bit => .next (s.answerQuery (.fail (.invalidHeader bit)))

/-- HDR_DECODE w (40_codec.md R131): never fails. -/
def execHdrDecode (w : Word) (s : State) : Host.Outcome State Fault Refusal := s.answer (.header (hdrDecode w))

/-- HDR_ENCODE h (40_codec.md R132). -/
def execHdrEncode (h : HeaderView) (s : State) : Host.Outcome State Fault Refusal := s.answer (.word (hdrEncode h))

/-- HDR_SUMMARY w (40_codec.md R140): the summary of a valid header, or `InvalidHeader(bit)`. -/
def execHdrSummary (w : Word) (s : State) : Host.Outcome State Fault Refusal :=
  match hdrValidate s.params.hdrMatch w with
  | .ok => s.answer (.summary (summary w))
  | .invalid bit => .next (s.answerQuery (.fail (.invalidHeader bit)))

/-- WORD_COUNT w (40_codec.md R146): for every word, valid header or not. -/
def execWordCount (w : Word) (s : State) : Host.Outcome State Fault Refusal := s.answer (.count (wordCount w))

/-- FUNC_DECODE w (40_codec.md R150). -/
def execFuncDecode (w : Word) (s : State) : Host.Outcome State Fault Refusal :=
  s.answer (.function (funcDecode w) (functionOf w) (afRaw w))

/-- FUNC_ENCODE f (40_codec.md R151). -/
def execFuncEncode (f : FunctionView) (s : State) : Host.Outcome State Fault Refusal := s.answer (.word (funcEncode f))

/-- LAMBDA_DECODE w (40_codec.md R153). -/
def execLambdaDecode (w : Word) (s : State) : Host.Outcome State Fault Refusal :=
  s.answer (.lambda (lambdaDecode w) (lambdaRaw w))

/-- LAMBDA_ENCODE l (40_codec.md R154). -/
def execLambdaEncode (l : LambdaView) (s : State) : Host.Outcome State Fault Refusal := s.answer (.word (lambdaEncode l))

/-- BATT_DECODE w (40_codec.md R156): `battery_raw` and `B_DIV`, no voltage (41_derived.md R176). -/
def execBattDecode (w : Word) (s : State) : Host.Outcome State Fault Refusal :=
  s.answer (.battery (battDecode w) (batteryRaw w))

/-- BATT_ENCODE b (40_codec.md R157). -/
def execBattEncode (b : BatteryView) (s : State) : Host.Outcome State Fault Refusal := s.answer (.word (battEncode b))

/-- AUX_DECODE w (40_codec.md R159). -/
def execAuxDecode (w : Word) (s : State) : Host.Outcome State Fault Refusal := s.answer (.aux (auxDecode w) (auxRaw w))

/-- AUX_ENCODE a (40_codec.md R160). -/
def execAuxEncode (a : AuxView) (s : State) : Host.Outcome State Fault Refusal := s.answer (.word (auxEncode a))

/-- AUX_VOLTS w (41_derived.md R170). -/
def execAuxVolts (w : Word) (s : State) : Host.Outcome State Fault Refusal := s.answer (.real (auxVolts w))

/-- AUX_PERCENT w (41_derived.md R171). -/
def execAuxPercent (w : Word) (s : State) : Host.Outcome State Fault Refusal := s.answer (.real (auxPercent w))

/-- AUX_RPM w (41_derived.md R172). -/
def execAuxRpm (w : Word) (s : State) : Host.Outcome State Fault Refusal := s.answer (.int (auxRpm w))

/-- AF_VALUE w (41_derived.md R173). -/
def execAfValue (w : Word) (s : State) : Host.Outcome State Fault Refusal := s.answer (afValue w)

/-- AF_UNITS w (41_derived.md R174). -/
def execAfUnits (w : Word) (s : State) : Host.Outcome State Fault Refusal := s.answer (afUnits w)

/-- PKT_AFR (41_derived.md R175): `NoPacket`, else the AFR of the packet held or `FunctionNotNormal`. -/
def execPktAfr (s : State) : Host.Outcome State Fault Refusal :=
  if s.dec.pktValid then
    match packetAfr s.dec.pkt with
    | some o => .next (s.answerQuery o)
    | none => .fault .packetMalformed
  else .next (s.answerQuery (.fail .noPacket))

/-- PKT_WORDS (44_interface.md R280): `[P.hdr, P.body[0], ..., P.body[P.n - 1]]`, or `NoPacket`. -/
def execPktWords (s : State) : Host.Outcome State Fault Refusal :=
  if s.dec.pktValid then
    if s.dec.pkt.body.length = s.dec.pkt.n.toNat then s.answer (.words s.dec.pkt.words)
    else .fault .packetMalformed
  else .next (s.answerQuery (.fail .noPacket))

/-- A reserved query code: `q_result` = NONE, `q_err` = IllegalQuery (44_interface.md R282). -/
def State.illegalQuery (s : State) : State := s.answerQuery (.fail .illegalQuery)

/-- Reserved query code 0x14 (44_interface.md R282). -/
def execReservedQ14 (s : State) : Host.Outcome State Fault Refusal := .next s.illegalQuery

/-- Reserved query code 0x15 (44_interface.md R282). -/
def execReservedQ15 (s : State) : Host.Outcome State Fault Refusal := .next s.illegalQuery

/-- Reserved query code 0x16 (44_interface.md R282). -/
def execReservedQ16 (s : State) : Host.Outcome State Fault Refusal := .next s.illegalQuery

/-- Reserved query code 0x17 (44_interface.md R282). -/
def execReservedQ17 (s : State) : Host.Outcome State Fault Refusal := .next s.illegalQuery

/-- Reserved query code 0x18 (44_interface.md R282). -/
def execReservedQ18 (s : State) : Host.Outcome State Fault Refusal := .next s.illegalQuery

/-- Reserved query code 0x19 (44_interface.md R282). -/
def execReservedQ19 (s : State) : Host.Outcome State Fault Refusal := .next s.illegalQuery

/-- Reserved query code 0x1A (44_interface.md R282). -/
def execReservedQ1A (s : State) : Host.Outcome State Fault Refusal := .next s.illegalQuery

/-- Reserved query code 0x1B (44_interface.md R282). -/
def execReservedQ1B (s : State) : Host.Outcome State Fault Refusal := .next s.illegalQuery

/-- Reserved query code 0x1C (44_interface.md R282). -/
def execReservedQ1C (s : State) : Host.Outcome State Fault Refusal := .next s.illegalQuery

/-- Reserved query code 0x1D (44_interface.md R282). -/
def execReservedQ1D (s : State) : Host.Outcome State Fault Refusal := .next s.illegalQuery

/-- Reserved query code 0x1E (44_interface.md R282). -/
def execReservedQ1E (s : State) : Host.Outcome State Fault Refusal := .next s.illegalQuery

/-- Reserved query code 0x1F (44_interface.md R282). -/
def execReservedQ1F (s : State) : Host.Outcome State Fault Refusal := .next s.illegalQuery

end Sys2Proof.Machine
end

