-- ==== Sys2Proof/Machine/Scanner.lean ====
section
/-! DEFINITION. The Frame Scanner (42_scanner.md): SCAN_BYTE, and the HEADER word class, which is the
SCAN_BYTE step whose window is a valid header. -/

namespace Sys2Proof.Machine

open Sys2Proof

/-- What a seek does with a byte the source answered, `b` at position `p` (42_scanner.md R202); `POS` has counted
it. A window that is no header changes only `SR` and `SEEKCNT` (R208); a valid header is latched with the
position of its first byte, and its body follows, or the empty packet is emitted at once (R200). -/
def Decoder.scanned (par : Params) (p : Pos) (b : Byte) (d : Decoder) : Decoder :=
  let w := scanWindow d.sr b
  let seen : Decoder := { d with seekCnt := satIncr d.seekCnt, sr := w }
  if hdrValid par.hdrMatch w then
    let o := p - 1
    let found : Decoder := { seen with hdr := w, hdrOff := o, bcnt := 0 }
    if wordCount w = 0 then found.deliver (classify par.lmMask w o [])
    else { found with st := .body }
  else seen

/-- One scan step in SEEK: the budget test first, then the read (42_scanner.md R202). -/
def State.scanStep (s : State) : State :=
  if s.dec.budgetSpent then s.mapDec (Decoder.raise .syncTimeout { off := s.dec.pos, detail := s.dec.seekCnt })
  else
    match s.readByte with
    | .silent => s
    | .eos s' => s'.mapDec (Decoder.raise .streamEnded { off := s.dec.pos, detail := s.dec.seekCnt })
    | .byte b s' => s'.mapDec (Decoder.scanned s.params s.dec.pos b)

/-- SCAN_BYTE (42_scanner.md R202). -/
def execScanByte (s : State) : Host.Outcome State Fault Refusal :=
  match s.dec.st with
  | .seek => .next s.scanStep
  | .idle => .fault .stepNotDue
  | .body => .fault .stepNotDue
  | .illegal => .fault .illegalState

/-- HEADER (30_encoding.md R91, 42_scanner.md R203): the scan step in which the window becomes the valid header
`w`. -/
def execHeader (w : Word) (s : State) : Host.Outcome State Fault Refusal :=
  if s.pendingWindow = some w ∧ hdrValid s.params.hdrMatch w = true then execScanByte s
  else .fault .wordNotInContext

end Sys2Proof.Machine
end

