-- ==== Sys2Proof/Machine/Dispatch.lean ====
section
/-! DEFINITION. The dispatch: one arm for each constructor of Instr, in the order of spec/opcode_table.json. -/

namespace Sys2Proof.Machine

open Sys2Proof

def exec (i : Instr) (s : State) : Host.Outcome State Fault Refusal :=
  match i with
  | .header w => Sys2Proof.Machine.execHeader w s
  | .lm1Word0 w => Sys2Proof.Machine.execLm1Word0 w s
  | .functionWord w => Sys2Proof.Machine.execFunctionWord w s
  | .lambdaWord w => Sys2Proof.Machine.execLambdaWord w s
  | .batteryWord w => Sys2Proof.Machine.execBatteryWord w s
  | .auxWord w => Sys2Proof.Machine.execAuxWord w s
  | .nop => Sys2Proof.Machine.execNop s
  | .decodeNext => Sys2Proof.Machine.execDecodeNext s
  | .setBudget k => Sys2Proof.Machine.execSetBudget k s
  | .clearBudget => Sys2Proof.Machine.execClearBudget s
  | .reset => Sys2Proof.Machine.execReset s
  | .reservedCmd4 => Sys2Proof.Machine.execReservedCmd4 s
  | .reservedCmd5 => Sys2Proof.Machine.execReservedCmd5 s
  | .reservedCmd6 => Sys2Proof.Machine.execReservedCmd6 s
  | .reservedCmd7 => Sys2Proof.Machine.execReservedCmd7 s
  | .reservedCmd8 => Sys2Proof.Machine.execReservedCmd8 s
  | .reservedCmd9 => Sys2Proof.Machine.execReservedCmd9 s
  | .reservedCmdA => Sys2Proof.Machine.execReservedCmdA s
  | .reservedCmdB => Sys2Proof.Machine.execReservedCmdB s
  | .reservedCmdC => Sys2Proof.Machine.execReservedCmdC s
  | .reservedCmdD => Sys2Proof.Machine.execReservedCmdD s
  | .reservedCmdE => Sys2Proof.Machine.execReservedCmdE s
  | .hdrValidate w => Sys2Proof.Machine.execHdrValidate w s
  | .hdrDecode w => Sys2Proof.Machine.execHdrDecode w s
  | .hdrEncode h => Sys2Proof.Machine.execHdrEncode h s
  | .hdrSummary w => Sys2Proof.Machine.execHdrSummary w s
  | .wordCount w => Sys2Proof.Machine.execWordCount w s
  | .funcDecode w => Sys2Proof.Machine.execFuncDecode w s
  | .funcEncode f => Sys2Proof.Machine.execFuncEncode f s
  | .lambdaDecode w => Sys2Proof.Machine.execLambdaDecode w s
  | .lambdaEncode l => Sys2Proof.Machine.execLambdaEncode l s
  | .battDecode w => Sys2Proof.Machine.execBattDecode w s
  | .battEncode b => Sys2Proof.Machine.execBattEncode b s
  | .auxDecode w => Sys2Proof.Machine.execAuxDecode w s
  | .auxEncode a => Sys2Proof.Machine.execAuxEncode a s
  | .auxVolts w => Sys2Proof.Machine.execAuxVolts w s
  | .auxPercent w => Sys2Proof.Machine.execAuxPercent w s
  | .auxRpm w => Sys2Proof.Machine.execAuxRpm w s
  | .afValue w => Sys2Proof.Machine.execAfValue w s
  | .afUnits w => Sys2Proof.Machine.execAfUnits w s
  | .pktAfr => Sys2Proof.Machine.execPktAfr s
  | .pktWords => Sys2Proof.Machine.execPktWords s
  | .reservedQ14 => Sys2Proof.Machine.execReservedQ14 s
  | .reservedQ15 => Sys2Proof.Machine.execReservedQ15 s
  | .reservedQ16 => Sys2Proof.Machine.execReservedQ16 s
  | .reservedQ17 => Sys2Proof.Machine.execReservedQ17 s
  | .reservedQ18 => Sys2Proof.Machine.execReservedQ18 s
  | .reservedQ19 => Sys2Proof.Machine.execReservedQ19 s
  | .reservedQ1A => Sys2Proof.Machine.execReservedQ1A s
  | .reservedQ1B => Sys2Proof.Machine.execReservedQ1B s
  | .reservedQ1C => Sys2Proof.Machine.execReservedQ1C s
  | .reservedQ1D => Sys2Proof.Machine.execReservedQ1D s
  | .reservedQ1E => Sys2Proof.Machine.execReservedQ1E s
  | .reservedQ1F => Sys2Proof.Machine.execReservedQ1F s
  | .scanByte => Sys2Proof.Machine.execScanByte s
  | .bodyByte => Sys2Proof.Machine.execBodyByte s
  | .classify hdr off body => Sys2Proof.Machine.execClassify hdr off body s

end Sys2Proof.Machine
end

