-- ==== Sys2Proof/WellFormed.lean ====
section
/-! DEFINITION. Which operations are well formed: the word of a word class passes the tests that its row
of spec/opcode_table.json names, and CLASSIFY's operands fit (43_assembler.md R236). Every other operand is
legal at every value (a field wider than its field is not representable, 40_codec.md R132). -/

namespace Sys2Proof

/-- Whether an operation's operands are ones it can have, at an instantiation of the parameters. -/
def Instr.wf (p : Params) : Instr → Bool
  | .header w => hdrValid p.hdrMatch w
  | .lm1Word0 w => hasLmMarker p.lmMask w
  | .functionWord w => isFunctionWord0 p.lmMask w
  | .batteryWord w => hasDivider w
  | .classify hdr _ body => hdrValid p.hdrMatch hdr && body.length = (Sys2Proof.wordCount hdr).toNat
  | _ => true

end Sys2Proof
end

