-- ==== Sys2Proof/Decode.lean ====
section
/-! DEFINITION. The decoder and, after it, the encoder. The block has no instruction set (00_scope.md R2):
an operation reaches it on a port, so its bits are read with the port they stand on: the command port's
`cmd[3:0]` (30_encoding.md R110), the query port's `q_sel[4:0]` (R111), the scan window (R91), or a place of
the frame's body (R100). SCAN_BYTE, BODY_BYTE and CLASSIFY have no encoding. How a transaction's operands
stand as bytes is the model's own (log 11), as is the packing of `q_fields` (log 10). -/

namespace Sys2Proof

/-- Where the bits of an operation stand. -/
inductive Port where
  /-- The command port (10_state.md R51). -/
  | command
  /-- The query port (10_state.md R54). -/
  | query
  /-- The scan window: two bytes of the stream while seeking (30_encoding.md R91). -/
  | window
  /-- A body word: two bytes of the stream at a place of the frame (30_encoding.md R100). -/
  | body (pl : Place)
  deriving DecidableEq, Repr

/-- Why bytes on a port are no operation. -/
inductive DecodeError where
  /-- Fewer bytes than the operation has. -/
  | tooShort
  /-- Bits outside `cmd[3:0]` or `q_sel[4:0]` are set: the port has no such bits. -/
  | strayBits
  /-- The window is no header: `InvalidHeader(bit)` (40_codec.md R130). -/
  | invalidHeader (bit : Nat)
  deriving DecidableEq, Repr

/-- The command of a code (30_encoding.md R110); total, the codes 0x4 to 0xE are reserved. -/
def decodeCommand (cmd : BitVec 4) (arg : Count) : Instr :=
  match cmd.toNat with
  | 0x0 => .nop
  | 0x1 => .decodeNext
  | 0x2 => .setBudget arg
  | 0x3 => .clearBudget
  | 0x4 => .reservedCmd4
  | 0x5 => .reservedCmd5
  | 0x6 => .reservedCmd6
  | 0x7 => .reservedCmd7
  | 0x8 => .reservedCmd8
  | 0x9 => .reservedCmd9
  | 0xA => .reservedCmdA
  | 0xB => .reservedCmdB
  | 0xC => .reservedCmdC
  | 0xD => .reservedCmdD
  | 0xE => .reservedCmdE
  | _ => .reset

/-- The query of a select code (30_encoding.md R111); total, the codes 0x14 to 0x1F are reserved. `word` is
`q_word`; `fields` is `q_fields`, a view's fields packed in the order of its layout table (log 10). -/
def decodeQuery (sel : BitVec 5) (word fields : Word) : Instr :=
  match sel.toNat with
  | 0x00 => .hdrValidate word
  | 0x01 => .hdrDecode word
  | 0x02 => .hdrEncode (hdrDecode fields)
  | 0x03 => .hdrSummary word
  | 0x04 => .wordCount word
  | 0x05 => .funcDecode word
  | 0x06 => .funcEncode (funcDecode fields)
  | 0x07 => .lambdaDecode word
  | 0x08 => .lambdaEncode (lambdaDecode fields)
  | 0x09 => .battDecode word
  | 0x0A => .battEncode (battDecode fields)
  | 0x0B => .auxDecode word
  | 0x0C => .auxEncode (auxDecode fields)
  | 0x0D => .auxVolts word
  | 0x0E => .auxPercent word
  | 0x0F => .auxRpm word
  | 0x10 => .afValue word
  | 0x11 => .afUnits word
  | 0x12 => .pktAfr
  | 0x13 => .pktWords
  | 0x14 => .reservedQ14
  | 0x15 => .reservedQ15
  | 0x16 => .reservedQ16
  | 0x17 => .reservedQ17
  | 0x18 => .reservedQ18
  | 0x19 => .reservedQ19
  | 0x1A => .reservedQ1A
  | 0x1B => .reservedQ1B
  | 0x1C => .reservedQ1C
  | 0x1D => .reservedQ1D
  | 0x1E => .reservedQ1E
  | _ => .reservedQ1F

/-- Whether a query takes an operand, `q_word` or `q_fields` (30_encoding.md R111). -/
def queryHasOperand (sel : BitVec 5) : Bool := sel.toNat ≤ 0x11

/-- The operation of a scan window (30_encoding.md R91): HEADER, or no header. -/
def decodeWindow (p : Params) (w : Word) : Except DecodeError Instr :=
  match hdrValidate p.hdrMatch w with
  | .ok => .ok (.header w)
  | .invalid bit => .error (.invalidHeader bit)

/-- The operation of a body word at its place (30_encoding.md R100); total. -/
def decodeBodyWord (p : Params) (pl : Place) (w : Word) : Instr :=
  match wordClass p.lmMask pl w with
  | .lm1 => .lm1Word0 w
  | .function => .functionWord w
  | .lambda => .lambdaWord w
  | .battery => .batteryWord w
  | .aux => .auxWord w

/-- The first word of a port's bytes, most significant byte first (20_memory.md R76), and the rest. -/
def takeWord : List Byte → Except DecodeError (Word × List Byte)
  | hi :: lo :: rest => .ok (Word.ofBytes hi lo, rest)
  | _ => .error .tooShort

/-- A transaction of the command port: a byte holding `cmd[3:0]`, then for SET_BUDGET the four bytes of
`cmd_arg`, most significant first. -/
def decodeCommandBytes : List Byte → Except DecodeError (Instr × List Byte)
  | [] => .error .tooShort
  | b :: rest =>
    if b.extractLsb' 4 4 ≠ 0 then .error .strayBits
    else if b = 0x02#8 then
      match rest with
      | a3 :: a2 :: a1 :: a0 :: rest' => .ok (decodeCommand 0x2#4 (a3 ++ a2 ++ a1 ++ a0), rest')
      | _ => .error .tooShort
    else .ok (decodeCommand (b.extractLsb' 0 4) 0, rest)

/-- A transaction of the query port: a byte holding `q_sel[4:0]`, then the operand's two bytes where the
query has one. -/
def decodeQueryBytes : List Byte → Except DecodeError (Instr × List Byte)
  | [] => .error .tooShort
  | b :: rest =>
    if b.extractLsb' 5 3 ≠ 0 then .error .strayBits
    else if queryHasOperand (b.extractLsb' 0 5) then
      match takeWord rest with
      | .ok (w, rest') => .ok (decodeQuery (b.extractLsb' 0 5) w w, rest')
      | .error e => .error e
    else .ok (decodeQuery (b.extractLsb' 0 5) 0 0, rest)

/-- The decoder: the operation that stands first in a port's bytes, and the bytes after it. -/
def decode (p : Params) : Port → List Byte → Except DecodeError (Instr × List Byte)
  | .command, bs => decodeCommandBytes bs
  | .query, bs => decodeQueryBytes bs
  | .window, bs =>
    match takeWord bs with
    | .ok (w, rest) =>
      match decodeWindow p w with
      | .ok i => .ok (i, rest)
      | .error e => .error e
    | .error e => .error e
  | .body pl, bs =>
    match takeWord bs with
    | .ok (w, rest) => .ok (decodeBodyWord p pl w, rest)
    | .error e => .error e

/-! ### The encoder -/

/-- The bytes of a word on the wire (20_memory.md R76). -/
def wordBytes (w : Word) : List Byte := [w.hi, w.lo]

/-- The bytes of a 32-bit `cmd_arg`, most significant first. -/
def argBytes (k : Count) : List Byte :=
  [k.extractLsb' 24 8, k.extractLsb' 16 8, k.extractLsb' 8 8, k.extractLsb' 0 8]

/-- The port and the bytes of an operation (30_encoding.md R91, R100, R110, R111); none for the internal
steps, which have no encoding. A body word is given a place at which its class stands; for AUX_WORD that is
word 3, where every word is an AuxWord. -/
def encode : Instr → Option (Port × List Byte)
  | .header w => some (.window, wordBytes w)
  | .lm1Word0 w => some (.body ⟨0, false⟩, wordBytes w)
  | .functionWord w => some (.body ⟨0, false⟩, wordBytes w)
  | .lambdaWord w => some (.body ⟨1, true⟩, wordBytes w)
  | .batteryWord w => some (.body ⟨2, true⟩, wordBytes w)
  | .auxWord w => some (.body ⟨3, true⟩, wordBytes w)
  | .nop => some (.command, [0x00#8])
  | .decodeNext => some (.command, [0x01#8])
  | .setBudget k => some (.command, 0x02#8 :: argBytes k)
  | .clearBudget => some (.command, [0x03#8])
  | .reset => some (.command, [0x0F#8])
  | .reservedCmd4 => some (.command, [0x04#8])
  | .reservedCmd5 => some (.command, [0x05#8])
  | .reservedCmd6 => some (.command, [0x06#8])
  | .reservedCmd7 => some (.command, [0x07#8])
  | .reservedCmd8 => some (.command, [0x08#8])
  | .reservedCmd9 => some (.command, [0x09#8])
  | .reservedCmdA => some (.command, [0x0A#8])
  | .reservedCmdB => some (.command, [0x0B#8])
  | .reservedCmdC => some (.command, [0x0C#8])
  | .reservedCmdD => some (.command, [0x0D#8])
  | .reservedCmdE => some (.command, [0x0E#8])
  | .hdrValidate w => some (.query, 0x00#8 :: wordBytes w)
  | .hdrDecode w => some (.query, 0x01#8 :: wordBytes w)
  | .hdrEncode v => some (.query, 0x02#8 :: wordBytes (hdrEncode v))
  | .hdrSummary w => some (.query, 0x03#8 :: wordBytes w)
  | .wordCount w => some (.query, 0x04#8 :: wordBytes w)
  | .funcDecode w => some (.query, 0x05#8 :: wordBytes w)
  | .funcEncode v => some (.query, 0x06#8 :: wordBytes (funcEncode v))
  | .lambdaDecode w => some (.query, 0x07#8 :: wordBytes w)
  | .lambdaEncode v => some (.query, 0x08#8 :: wordBytes (lambdaEncode v))
  | .battDecode w => some (.query, 0x09#8 :: wordBytes w)
  | .battEncode v => some (.query, 0x0A#8 :: wordBytes (battEncode v))
  | .auxDecode w => some (.query, 0x0B#8 :: wordBytes w)
  | .auxEncode v => some (.query, 0x0C#8 :: wordBytes (auxEncode v))
  | .auxVolts w => some (.query, 0x0D#8 :: wordBytes w)
  | .auxPercent w => some (.query, 0x0E#8 :: wordBytes w)
  | .auxRpm w => some (.query, 0x0F#8 :: wordBytes w)
  | .afValue w => some (.query, 0x10#8 :: wordBytes w)
  | .afUnits w => some (.query, 0x11#8 :: wordBytes w)
  | .pktAfr => some (.query, [0x12#8])
  | .pktWords => some (.query, [0x13#8])
  | .reservedQ14 => some (.query, [0x14#8])
  | .reservedQ15 => some (.query, [0x15#8])
  | .reservedQ16 => some (.query, [0x16#8])
  | .reservedQ17 => some (.query, [0x17#8])
  | .reservedQ18 => some (.query, [0x18#8])
  | .reservedQ19 => some (.query, [0x19#8])
  | .reservedQ1A => some (.query, [0x1A#8])
  | .reservedQ1B => some (.query, [0x1B#8])
  | .reservedQ1C => some (.query, [0x1C#8])
  | .reservedQ1D => some (.query, [0x1D#8])
  | .reservedQ1E => some (.query, [0x1E#8])
  | .reservedQ1F => some (.query, [0x1F#8])
  | .scanByte => none
  | .bodyByte => none
  | .classify _ _ _ => none

/-! ### The opcode table's words -/

/-- The port that a word of spec/opcode_table.json stands on (log 12). 16 bits are a word of the wire: the
scan window where the word is a valid header, else a place of the body at which its pattern stands. Fewer
than 16 bits are a code: `cmd[3:0]` and `q_sel[4:0]` share the values 0x0 to 0xF, and the table gives no bit
that tells them apart; a code is read as the command where the command port defines it (0x0 to 0x3 and 0xF),
else as the query. -/
def tablePort (nbits w : Nat) : Port :=
  if nbits < 16 then
    if w ≤ 0x3 ∨ w = 0xF then .command else .query
  else
    let x := BitVec.ofNat 16 w
    if hdrValid Params.spec.hdrMatch x then .window
    else if hasLmMarker Params.spec.lmMask x ∨ hasFunctionMarker x then .body ⟨0, false⟩
    else if hasDivider x then .body ⟨2, true⟩
    else .body ⟨3, true⟩

/-- The bytes of a table word as the port has them: a word of the wire most significant byte first; a code in
its byte, with operand bytes of zeros after it. -/
def tableBytes (nbits w : Nat) : List Byte :=
  if nbits < 16 then [BitVec.ofNat 8 w, 0#8, 0#8, 0#8, 0#8]
  else wordBytes (BitVec.ofNat 16 w)

/-- The operation the decoder reads from a word numbered as spec/opcode_table.json numbers it, at the spec
values of the parameters. -/
def decodeTableWord (nbits w : Nat) : Option Instr :=
  match decode Params.spec (tablePort nbits w) (tableBytes nbits w) with
  | .ok (i, _) => some i
  | .error _ => none

end Sys2Proof
end

