-- ==== Sys2Proof/Machine/Fetch.lean ====
section
/-! DEFINITION. Where the next operation comes from. The block fetches no instructions (20_memory.md R82): the
next operation is what the agent whose turn it is puts on its port, or the step that is due in the decoder.
The word classes are read where they stand: in the scan window while seeking, at their place in the body
(30_encoding.md R100). -/

namespace Sys2Proof.Machine

open Sys2Proof

/-- What a turn comes to. -/
inductive Fetched where
  /-- The operation `i` runs in the state `s`. -/
  | run (i : Instr) (s : State)
  /-- No operation is due: the state stands as `s`. -/
  | rest (s : State)
  /-- The turn cannot be taken. -/
  | stop (f : Fault)
  deriving DecidableEq, Repr

/-- The decoder's turn. In IDLE it does nothing (44_interface.md R278). In SEEK, SCAN_BYTE is due: as HEADER
where the next byte completes a valid header, and without a read where the budget is spent (42_scanner.md
R205). In BODY, BODY_BYTE is due: as a word class where the next byte completes a word. While the byte source
is silent no step happens (42_scanner.md R209). -/
def State.fetchDecoder (s : State) : Fetched :=
  match s.dec.st with
  | .idle => .rest s
  | .illegal => .stop .illegalState
  | .seek =>
    if s.dec.budgetSpent then .run .scanByte s
    else if s.source = [] then .rest s
    else
      match s.pendingWindow with
      | some w =>
        match decodeWindow s.params w with
        | .ok i => .run i s
        | .error _ => .run .scanByte s
      | none => .run .scanByte s
  | .body =>
    if s.source = [] then .rest s
    else
      match s.pendingBodyWord with
      | some w => .run (decodeBodyWord s.params s.bodyPlace w) s
      | none => .run .bodyByte s

/-- A turn of an agent, taken in state `s` (the turn itself already gone from its list). -/
def State.fetchTurn (t : Turn) (s : State) : Fetched :=
  match t with
  | .command cmd arg => .run (decodeCommand cmd arg) s
  | .query sel word fields => .run (decodeQuery sel word fields) s
  | .resetInput => .run .reset s
  | .decoder => s.fetchDecoder
  | .lateAnswer => if s.withdrawn = 0 then .stop .answerWithoutRequest else .rest s.discardAnswer

/-- The next operation of the machine: the first turn's. With no turn to come nothing moves: the block holds
its state (60_exceptions.md R321, 42_scanner.md R209). -/
def State.fetch (s : State) : Fetched :=
  match s.turns with
  | [] => .rest s
  | t :: ts => State.fetchTurn t { s with turns := ts }

/-! ### A table word as the next operation -/

/-- The state with the bits `w` put on a port as the next thing the machine does: a command or query turn; or,
for a word of the wire, the decoder's turn in a state where the byte source's next byte completes that word at
that place. A word of the wire needs the decoder in SEEK with the word's first byte consumed into the shift
register and no budget, or in BODY with the header and the words before it consumed and its first byte in
HIBYTE, in a frame that has another word after it. -/
def State.placeOnPort (port : Port) (w : Nat) (s : State) : State :=
  let x : Word := BitVec.ofNat 16 w
  match port with
  | .command => { s with turns := .command (BitVec.ofNat 4 w) 0 :: s.turns }
  | .query => { s with turns := .query (BitVec.ofNat 5 w) 0 0 :: s.turns }
  | .window =>
    { s with
      turns := .decoder :: s.turns
      source := .byte x.lo :: s.source
      dec :=
        { s.dec with
          st := .seek
          sr := x.hi.setWidth 16
          seekCnt := 1
          pos := s.dec.pos + 1
          budgetEn := false } }
  | .body pl =>
    { s with
      turns := .decoder :: s.turns
      source := .byte x.lo :: s.source
      dec :=
        { s.dec with
          st := .body
          hdr := s.params.hdrMatch.word ||| BitVec.ofNat 16 (pl.pos + 2)
          hdrOff := s.dec.pos
          pos := s.dec.pos + BitVec.ofNat 32 (2 * pl.pos + 3)
          bcnt := BitVec.ofNat 9 (2 * pl.pos + 1)
          hibyte := x.hi
          bodyBuf := (List.range pl.pos).map fun i => (i, if i = 0 then 0x0080#16 else 0#16) } }

end Sys2Proof.Machine
end

