-- ==== Sys2Proof/Machine/Step.lean ====
section
/-! DEFINITION. One step of the machine: the next turn's operation, run by exec. -/

namespace Sys2Proof.Machine

open Sys2Proof

/-- One step: one turn of one agent (70_reset_and_hazards.md R350: one step per command and per byte answered,
queries combinational). -/
def step (s : State) : Host.Outcome State Fault Refusal :=
  match s.fetch with
  | .run i s' => exec i s'
  | .rest s' => .next s'
  | .stop f => .fault f

/-- The state with a word of spec/opcode_table.json stored where step takes its next operation from (log 4,
log 12). -/
def State.withFetchWord (s : State) (nbits w : Nat) : State := s.placeOnPort (tablePort nbits w) w

end Sys2Proof.Machine
end

