-- ==== Sys2Proof/Machine/Script.lean ====
section
/-! DEFINITION. Host scripts (30_encoding.md R115): the items of a script, their text, one item a line, and the
state in which the host and the byte source are about to act one out (log 22). -/

namespace Sys2Proof.Machine

open Sys2Proof

/-- An item of a host script (30_encoding.md R115). -/
inductive ScriptItem where
  /-- A command line. -/
  | command (cmd : BitVec 4) (arg : Count)
  /-- A query line. -/
  | query (sel : BitVec 5) (word fields : Word)
  /-- `STREAM`: bytes in stream order. -/
  | stream (bs : List Byte)
  /-- `WORDS`: words, each written most significant byte first. -/
  | words (ws : List Word)
  /-- `EOS`: the end of the stream. -/
  | eos
  deriving DecidableEq, Repr

/-! ### The text of a script -/

/-- The mnemonics of the command lines and their codes (30_encoding.md R110); the reserved codes have none. -/
def commandMnemonics : List (String × BitVec 4) :=
  [("NOP", 0x0#4), ("DECODE_NEXT", 0x1#4), ("SET_BUDGET", 0x2#4), ("CLEAR_BUDGET", 0x3#4), ("RESET", 0xF#4)]

/-- The mnemonics of the query lines and their codes (30_encoding.md R111); the reserved codes have none. -/
def queryMnemonics : List (String × BitVec 5) :=
  [("HDR_VALIDATE", 0x00#5), ("HDR_DECODE", 0x01#5), ("HDR_ENCODE", 0x02#5), ("HDR_SUMMARY", 0x03#5),
    ("WORD_COUNT", 0x04#5), ("FUNC_DECODE", 0x05#5), ("FUNC_ENCODE", 0x06#5), ("LAMBDA_DECODE", 0x07#5),
    ("LAMBDA_ENCODE", 0x08#5), ("BATT_DECODE", 0x09#5), ("BATT_ENCODE", 0x0A#5), ("AUX_DECODE", 0x0B#5),
    ("AUX_ENCODE", 0x0C#5), ("AUX_VOLTS", 0x0D#5), ("AUX_PERCENT", 0x0E#5), ("AUX_RPM", 0x0F#5)] ++
  [("AF_VALUE", 0x10#5), ("AF_UNITS", 0x11#5), ("PKT_AFR", 0x12#5), ("PKT_WORDS", 0x13#5)]

/-- The code of a mnemonic in a table. -/
def codeOf {n : Nat} (name : List Char) : List (String × BitVec n) → Option (BitVec n)
  | [] => none
  | (m, c) :: rest => if m.toList = name then some c else codeOf name rest

/-- The value of a digit in base 10 or 16. -/
def digitValue (base : Nat) (c : Char) : Option Nat :=
  let v :=
    if '0' ≤ c ∧ c ≤ '9' then c.toNat - '0'.toNat
    else if 'A' ≤ c ∧ c ≤ 'F' then c.toNat - 'A'.toNat + 10
    else if 'a' ≤ c ∧ c ≤ 'f' then c.toNat - 'a'.toNat + 10
    else base
  if v < base then some v else none

/-- The value of a string of digits, read on from `acc`. -/
def digitsValue (base : Nat) : Nat → List Char → Option Nat
  | acc, [] => some acc
  | acc, c :: cs =>
    match digitValue base c with
    | some v => digitsValue base (acc * base + v) cs
    | none => none

/-- A number with at least one digit, below `2 ^ n`. -/
def number (base n : Nat) (cs : List Char) : Option (BitVec n) :=
  match cs with
  | [] => none
  | _ :: _ =>
    match digitsValue base 0 cs with
    | some v => if v < 2 ^ n then some (BitVec.ofNat n v) else none
    | none => none

/-- A hex word, `0x` and its digits. -/
def hexWord : List Char → Option Word
  | '0' :: 'x' :: cs => number 16 16 cs
  | _ => none

/-- The tokens of a line, `cur` begun: separated by blanks, up to a comment. -/
def lineTokens (cur : List Char) : List Char → List (List Char)
  | [] => if cur = [] then [] else [cur]
  | c :: cs =>
    if c = ';' then (if cur = [] then [] else [cur])
    else if c = ' ' then (if cur = [] then [] else [cur]) ++ lineTokens [] cs
    else lineTokens (cur ++ [c]) cs

/-- Every token of a list read by one reader. -/
def readAll {α : Type} (f : List Char → Option α) : List (List Char) → Option (List α)
  | [] => some []
  | t :: ts =>
    match f t, readAll f ts with
    | some x, some xs => some (x :: xs)
    | _, _ => none

/-- A command line: only SET_BUDGET has an operand, in decimal. -/
def commandLine (name : List Char) (operands : List (List Char)) : Option ScriptItem :=
  match codeOf name commandMnemonics, operands with
  | some cmd, [] => if cmd = 0x2#4 then none else some (.command cmd 0)
  | some cmd, [k] =>
    if cmd = 0x2#4 then
      match number 10 32 k with
      | some arg => some (.command cmd arg)
      | none => none
    else none
  | _, _ => none

/-- A query line after its `Q`: the operand, where the query has one, is a hex word. -/
def queryLine (name : List Char) (operands : List (List Char)) : Option ScriptItem :=
  match codeOf name queryMnemonics, operands with
  | some sel, [] => if queryHasOperand sel then none else some (.query sel 0 0)
  | some sel, [x] =>
    if queryHasOperand sel then
      match hexWord x with
      | some w => some (.query sel w w)
      | none => none
    else none
  | _, _ => none

/-- The items of one line's tokens: none on a blank line or a comment. -/
def lineItems : List (List Char) → Option (List ScriptItem)
  | [] => some []
  | key :: rest =>
    if key = "EOS".toList then (if rest = [] then some [.eos] else none)
    else if key = "STREAM".toList then (readAll (number 16 8) rest).map fun bs => [.stream bs]
    else if key = "WORDS".toList then (readAll hexWord rest).map fun ws => [.words ws]
    else if key = "Q".toList then
      match rest with
      | name :: operands => (queryLine name operands).map fun i => [i]
      | [] => none
    else (commandLine key rest).map fun i => [i]

/-- The items of a script's lines, none where a line is no item of R115. -/
def scriptItems : List String → Option (List ScriptItem)
  | [] => some []
  | l :: ls =>
    match lineItems (lineTokens [] l.toList), scriptItems ls with
    | some is, some rest => some (is ++ rest)
    | _, _ => none

/-! ### Acting a script out -/

/-- Whether an item is a DECODE_NEXT command. -/
def ScriptItem.isDecodeNext : ScriptItem → Bool
  | .command cmd _ => cmd = 0x1#4
  | _ => false

/-- The answers an item adds to the byte source; `WORDS` expands to `STREAM`. The end of the stream is answered
to each of `ends` decodes that may meet it. -/
def ScriptItem.answers (ends : Nat) : ScriptItem → List Answer
  | .stream bs => bs.map .byte
  | .words ws => (wireBytes ws).map .byte
  | .eos => List.replicate ends .eos
  | .command _ _ => []
  | .query _ _ _ => []

/-- The turns of an item: its own, and after a DECODE_NEXT as many turns of the decoder as the stream has
answers, and one. -/
def ScriptItem.turns (steps : Nat) : ScriptItem → List Turn
  | .command cmd arg =>
    .command cmd arg :: if cmd = 0x1#4 then List.replicate steps .decoder else []
  | .query sel word fields => [.query sel word fields]
  | .stream _ => []
  | .words _ => []
  | .eos => []

/-- The byte source's answers of a script. -/
def scriptSource (items : List ScriptItem) : List Answer :=
  items.flatMap (ScriptItem.answers (items.countP ScriptItem.isDecodeNext))

/-- The agents' turns of a script: the host waits for each decode to end, as far as the stream allows. -/
def scriptTurns (items : List ScriptItem) : List Turn :=
  items.flatMap (ScriptItem.turns ((scriptSource items).length + 1))

/-- A state about to act out a script. -/
def State.withScript (s : State) (items : List ScriptItem) : State :=
  { s with source := scriptSource items, turns := scriptTurns items }

end Sys2Proof.Machine
end

