-- ==== Sys2Proof/Machine/Ports.lean ====
section
/-! DEFINITION. The output ports, readable by the host at any time (10_state.md R52, R53, R55): functions of
the state, which reading them does not change. -/

namespace Sys2Proof.Machine

open Sys2Proof

/-- The status outputs (10_state.md R55). -/
structure StatusOut where
  busy : Bool
  st : BitVec 2
  budgetEn : Bool
  maxBytes : Count
  pos : Pos
  deriving DecidableEq, Repr

/-- The status outputs of a state; `ST` = 3 faults (10_state.md R31). -/
def Decoder.statusOut (d : Decoder) : Except Fault StatusOut :=
  if d.st = .illegal then .error .illegalState
  else
    .ok { busy := d.busy, st := d.st.code, budgetEn := d.budgetEn, maxBytes := d.maxBytes, pos := d.pos }

/-- What reading the fields of PKT comes to: PKT while `PKT_VALID` = 1, else a fault (10_state.md R60, I12). -/
def Decoder.readPacket (d : Decoder) : Except Fault Packet :=
  if d.pktValid then .ok d.pkt else .error .packetUnreadable

/-- The packet output (10_state.md R52): `PKT_VALID`, and what reading the fields of PKT comes to. -/
structure PacketOut where
  valid : Bool
  fields : Except Fault Packet
  deriving Repr

/-- The packet output of a state: `PKT_VALID` is readable at any time, the fields of PKT only while it is 1. -/
def Decoder.packetOut (d : Decoder) : PacketOut := { valid := d.pktValid, fields := d.readPacket }

/-- The error output (10_state.md R53). -/
structure ErrorOut where
  valid : Bool
  code : BitVec 4
  info : ErrInfo
  deriving DecidableEq, Repr

/-- The error output of a state; a code 9 to 15 found faults (I19). -/
def Decoder.errorOut (d : Decoder) : Except Fault ErrorOut :=
  if 8 < d.errCode.toNat then .error .illegalErrorCode
  else .ok { valid := d.errValid, code := d.errCode, info := d.errInfo }

/-- The byte image of PKT_WORDS (44_interface.md R280): each word most significant byte first. -/
def packetBytes (P : Packet) : List Byte := wireBytes P.words

end Sys2Proof.Machine
end

