-- ==== Sys2Proof/Safety.lean ====
section
/-! DEFINITION. What counts as a safe state and a safe run, in the terms the statements use: the invariants
that the spec gives as prose, and the runs of the decoder. -/

namespace Sys2Proof.Machine

open Sys2Proof

/-- The values that 10_state.md R60 gives after reset; BODYBUF and PKT hold no defined value, so an entry of the
one and the other as a whole are unreadable. -/
structure Decoder.AtReset (d : Decoder) : Prop where
  st : d.st = .idle
  sr : d.sr = 0
  seekCnt : d.seekCnt = 0
  pos : d.pos = 0
  hdr : d.hdr = 0
  hdrOff : d.hdrOff = 0
  bcnt : d.bcnt = 0
  hibyte : d.hibyte = 0
  bodyBuf : ∀ i, d.bodyBuf.read i = none ∧ d.bodyWord i = none
  budgetEn : d.budgetEn = false
  maxBytes : d.maxBytes = 0
  pktValid : d.pktValid = false
  pkt : d.packetOut = ⟨false, .error .packetUnreadable⟩
  errValid : d.errValid = false
  errCode : d.errCode = 0
  errInfo : d.errInfo = ⟨0, 0⟩

/-- The operations of the query port (30_encoding.md R111). -/
def isQuery (i : Instr) : Prop := ∃ sel word fields, i = decodeQuery sel word fields

/-- The kind that a word class of an assembled packet is recorded as (30_encoding.md R100). -/
def classOfKind : Kind → WordClass
  | .function => .function
  | .lambda => .lambda
  | .battery => .battery
  | .aux => .aux

/-- Whether the first word of a body is a FunctionWord. -/
def startsWithFunction (lmMask : Word) : List Word → Bool
  | [] => false
  | w0 :: _ => isFunctionWord0 lmMask w0

/-- The kinds a packet's body words may have (43_assembler.md R237): a FunctionWord only at index 0, followed
by a LambdaWord; a BatteryWord only at index 2 after them; AuxWords otherwise. -/
def KindsOk (kinds : List Kind) : Prop :=
  ∃ front ∈ [[], [Kind.function, .lambda], [Kind.function, .lambda, .battery]],
    ∃ m, kinds = front ++ List.replicate m .aux

/-- The channel numbers that go with the kinds (43_assembler.md R237): 0 for a word that is no AuxWord, and 1,
2, 3 … for the AuxWords in index order, counted on from `c`. -/
def channelsFrom (c : Nat) : List Kind → List (BitVec 8)
  | [] => []
  | .aux :: ks => BitVec.ofNat 8 c :: channelsFrom (c + 1) ks
  | _ :: ks => 0 :: channelsFrom c ks

/-- The packet invariants (10_state.md R41, 43_assembler.md R237): the header is valid and declares `n`, there
are `n` sub-packets, their kinds and channels as R237 says. -/
structure PacketOk (p : Params) (P : Packet) : Prop where
  header : hdrValid p.hdrMatch P.hdr = true
  count : P.n = wordCount P.hdr
  words : P.body.length = P.n.toNat
  kinds : P.kind.length = P.n.toNat
  order : KindsOk P.kind
  channels : P.chan = channelsFrom 1 P.kind

/-- The error codes that a decode can leave in `ERR_CODE` (60_exceptions.md R301: "delivered on" `ERR_*`). -/
def DecodeErrorCode (c : BitVec 4) : Prop :=
  c = ErrorKind.streamEnded.code ∨ c = ErrorKind.syncTimeout.code ∨ c = ErrorKind.truncatedStream.code ∨
    c = ErrorKind.unsupportedVariant.code

/-- The decoder's invariant at an instantiation of the parameters. -/
structure Decoder.Inv (p : Params) (d : Decoder) : Prop where
  /-- `ST` = 3 is never reached (10_state.md R31). -/
  legal : d.st ≠ .illegal
  /-- `PKT_VALID` and `ERR_VALID` are never both 1 (10_state.md R42). -/
  exclusive : ¬(d.pktValid = true ∧ d.errValid = true)
  /-- While busy, neither is 1 (70_reset_and_hazards.md R345). -/
  unreadable : d.busy = true → d.pktValid = false ∧ d.errValid = false
  /-- The error registers are cleared while `ERR_VALID` = 0, and hold a decode's error while it is 1
  (10_state.md R42, 60_exceptions.md R301). -/
  errors : if d.errValid = true then DecodeErrorCode d.errCode else d.errCode = 0 ∧ d.errInfo = ⟨0, 0⟩
  /-- A packet held keeps the packet invariants (43_assembler.md R237). -/
  packet : d.pktValid = true → PacketOk p d.pkt
  /-- BODYBUF keeps its canonical form (10_state.md R38). -/
  buffer : d.bodyBuf.wf = true
  /-- A seek has consumed at most `MAX_BYTES` bytes under a budget (42_scanner.md R205). -/
  budget : d.st = .seek → d.budgetEn = true → d.seekCnt.toNat ≤ d.maxBytes.toNat
  /-- In SEEK no window has been a valid header yet (10_state.md R31). -/
  unseen : d.st = .seek → hdrValid p.hdrMatch d.sr = false
  /-- In BODY the header is valid and the body is not complete (43_assembler.md R230, R231). -/
  frame : d.st = .body → hdrValid p.hdrMatch d.hdr = true ∧ d.bcnt.toNat < 2 * d.bodyWords
  /-- In BODY every word received has its value in BODYBUF (43_assembler.md R232). -/
  received : d.st = .body → ∀ i, i < d.bodyIndex → (d.bodyBuf.read i).isSome = true

/-- The machine's invariant. -/
def State.Inv (s : State) : Prop := s.dec.Inv s.params

/-- `k` turns of the decoder and nothing else. -/
def State.withDecoderTurns (s : State) (k : Nat) : State := { s with turns := List.replicate k .decoder }

/-- `k` steps of the machine, stopping at a fault or a refusal. -/
def steps : Nat → State → Host.Outcome State Fault Refusal
  | 0, s => .next s
  | k + 1, s =>
    match step s with
    | .next s' => steps k s'
    | .fault f => .fault f
    | .refused r => .refused r

/-- The decoder moves `k` times, as one run of the machine. -/
def decoderRun (k : Nat) (s : State) : Host.Outcome State Fault Refusal := steps k (s.withDecoderTurns k)

end Sys2Proof.Machine
end

