-- ==== Sys2Proof/Certificates/Slice0/Obligations.lean ====
section
/-! DEFINITION. The statements for the provers, each from numbered rules of spec/. -/

open Sys2Proof Sys2Proof.Machine

/-! ## Reset -/

/-- 10_state.md R60: the values after reset. -/
def Obligations.ResetHoldsTheSpecValues : Prop := State.reset.dec.AtReset

/-- 70_reset_and_hazards.md R340: the RESET command and the reset input both set every element, in any state;
the environment around the decoder stays, but that an outstanding read request is withdrawn (log 14, log 16). -/
def Obligations.ResetTakesEffectInAnyState : Prop :=
  ∀ s : State,
    (∃ t, exec .reset s = .next t ∧ t.dec.AtReset ∧
      t.params = s.params ∧ t.source = s.source ∧ t.turns = s.turns ∧ t.hostFault = s.hostFault ∧
      t.qOut = s.qOut ∧
      t.withdrawn = s.withdrawn +
        (if s.dec.st = .body ∨ (s.dec.st = .seek ∧ s.dec.budgetSpent = false) then 1 else 0)) ∧
    (∀ ts, s.turns = .resetInput :: ts → step s = exec .reset { s with turns := ts })

/-- 44_interface.md R274, 70_reset_and_hazards.md R346: the answer to a withdrawn request is taken from the
source and not counted; an answer to no request is a fault. The turn that carries it is the model's (log 14). -/
def Obligations.LateAnswerIsDiscarded : Prop :=
  ∀ (s : State) (a : Answer) (rest : List Answer) (ts : List Turn),
    s.turns = .lateAnswer :: ts → s.source = a :: rest →
    (0 < s.withdrawn →
      step s = .next { s with turns := ts, source := rest, withdrawn := s.withdrawn - 1 }) ∧
    (s.withdrawn = 0 → step s = .fault .answerWithoutRequest)

/-! ## Commands -/

/-- 44_interface.md R270. -/
def Obligations.NopHasNoEffect : Prop := ∀ s : State, exec .nop s = .next s

/-- 44_interface.md R271 and 42_scanner.md R201: what an accepted DECODE_NEXT writes, and that the first byte of
a seek completes no header. -/
def Obligations.DecodeNextStartsAFreshSeek : Prop :=
  (∀ s : State, s.dec.st = .idle →
    exec .decodeNext s =
      .next { s with
        dec := { s.dec with
          pktValid := false, errValid := false, errCode := 0, errInfo := ⟨0, 0⟩
          sr := 0, seekCnt := 0, bcnt := 0, st := .seek } }) ∧
  ∀ (m : HdrMatch) (b : Byte), hdrValid m (scanWindow 0 b) = false

/-- 44_interface.md R272, and its corner case: under `MAX_BYTES` = 0 the next seek fails at once, without
reading. -/
def Obligations.SetBudgetBoundsTheNextSeek : Prop :=
  ∀ (s : State) (k : Count), s.dec.st = .idle →
    exec (.setBudget k) s = .next { s with dec := { s.dec with budgetEn := true, maxBytes := k } } ∧
    ∀ t u, k = 0 → exec (.setBudget k) s = .next t → exec .decodeNext t = .next u →
      exec .scanByte u =
        .next { u with dec := { u.dec with
          errValid := true, errCode := 3, errInfo := ⟨u.dec.pos, 0⟩, st := .idle } }

/-- 44_interface.md R273: `MAX_BYTES` keeps its value and a seek is bounded only by the stream. -/
def Obligations.ClearBudgetUnboundsTheSeek : Prop :=
  ∀ s : State, s.dec.st = .idle →
    ∃ t, exec .clearBudget s = .next t ∧ t = { s with dec := { s.dec with budgetEn := false } } ∧
      t.dec.maxBytes = s.dec.maxBytes ∧ t.dec.budgetSpent = false

/-- 70_reset_and_hazards.md R344: a command while busy changes nothing in the block; the model records it
(I13, log 15). -/
def Obligations.CommandsAreIgnoredWhileBusy : Prop :=
  ∀ (s : State) (cmd : BitVec 4) (arg : Count),
    s.dec.st = .seek ∨ s.dec.st = .body → cmd ≠ 0x0#4 → cmd ≠ 0xF#4 →
    exec (decodeCommand cmd arg) s = .next { s with hostFault := true }

/-- 44_interface.md R275: the reserved codes have no effect in any state; the model records one that comes while
BUSY = 1 (I13, log 15). -/
def Obligations.ReservedCommandsHaveNoEffect : Prop :=
  ∀ (s : State) (cmd : BitVec 4) (arg : Count), 0x4 ≤ cmd.toNat → cmd.toNat ≤ 0xE →
    exec (decodeCommand cmd arg) s = .next { s with hostFault := s.hostFault || s.dec.busy }

/-- 10_state.md R31: an operation that finds `ST` = 3 faults. -/
def Obligations.IllegalStateValueFaults : Prop :=
  ∀ s : State, s.dec.st = .illegal →
    exec .decodeNext s = .fault .illegalState ∧
    (∀ k, exec (.setBudget k) s = .fault .illegalState) ∧
    exec .clearBudget s = .fault .illegalState ∧
    exec .scanByte s = .fault .illegalState ∧
    exec .bodyByte s = .fault .illegalState ∧
    (∀ hdr off body, exec (.classify hdr off body) s = .fault .illegalState) ∧
    s.dec.statusOut = .error .illegalState ∧
    (∀ ts, s.turns = .decoder :: ts → step s = .fault .illegalState)

/-! ## The query port -/

/-- 44_interface.md R283: a query changes no state, is answered in any state whose packet keeps the packet
invariants, and a packet query with no packet held answers NoPacket. `qOut` (log 9) and `q_result` = NONE beside
NoPacket (log 27) are the model's choice. -/
def Obligations.QueriesChangeNoState : Prop :=
  ∀ (i : Instr), isQuery i → ∀ s : State,
    (∀ t, exec i s = .next t → ∃ o, t = { s with qOut := o }) ∧
    ((s.dec.pktValid = true → PacketOk s.params s.dec.pkt) →
      ∃ o, exec i s = .next { s with qOut := o }) ∧
    (s.dec.pktValid = false → i = .pktAfr ∨ i = .pktWords →
      exec i s = .next { s with qOut := ⟨.none, .noPacket⟩ })

/-- 10_state.md R54: a query's answer depends on its operands, the parameters, PKT and PKT_VALID alone. -/
def Obligations.QueriesReadOnlyThePacket : Prop :=
  ∀ (i : Instr), isQuery i → ∀ s s' t t' : State,
    s.params = s'.params → s.dec.pktValid = s'.dec.pktValid →
    (s.dec.pktValid = true → s.dec.pkt = s'.dec.pkt) →
    exec i s = .next t → exec i s' = .next t' → t.qOut = t'.qOut

/-- 40_codec.md R130 and 30_encoding.md R91: OK exactly for `(w & HDR_MASK) == HDR_MATCH`, else the first failing
bit in the order 15, 13, 9, 7. `q_result` = NONE beside InvalidHeader is the model's choice (log 27). -/
def Obligations.HdrValidateReportsTheFirstFailingBit : Prop :=
  ∀ (s : State) (w : Word),
    (w &&& 0xA280#16 = s.params.hdrMatch.word → exec (.hdrValidate w) s = .next { s with qOut := ⟨.ok, .none⟩ }) ∧
    ∀ (before after : List Nat) (bit : Nat), [15, 13, 9, 7] = before ++ bit :: after →
      (∀ j ∈ before, w.getLsbD j = s.params.hdrMatch.word.getLsbD j) →
      w.getLsbD bit ≠ s.params.hdrMatch.word.getLsbD bit →
      exec (.hdrValidate w) s = .next { s with qOut := ⟨.none, .invalidHeader bit⟩ }

/-- 40_codec.md R131, R132: the header field view by bit positions. -/
def Obligations.HeaderCodecFollowsTheLayout : Prop :=
  (∀ (s : State) (w : Word), ∃ v : HeaderView,
    exec (.hdrDecode w) s = .next { s with qOut := ⟨.header v, .none⟩ } ∧
    v.start.toNat = w.toNat / 2 ^ 15 ∧ v.recording.toNat = w.toNat / 2 ^ 14 % 2 ∧
    v.clear13.toNat = w.toNat / 2 ^ 13 % 2 ∧ v.dataOrResponse.toNat = w.toNat / 2 ^ 12 % 2 ∧
    v.logCapable.toNat = w.toNat / 2 ^ 11 % 2 ∧ v.reserved.toNat = w.toNat / 2 ^ 10 % 2 ∧
    v.clear9.toNat = w.toNat / 2 ^ 9 % 2 ∧ v.lengthHigh.toNat = w.toNat / 2 ^ 8 % 2 ∧
    v.clear7.toNat = w.toNat / 2 ^ 7 % 2 ∧ v.lengthLow.toNat = w.toNat % 2 ^ 7) ∧
  ∀ (s : State) (v : HeaderView), ∃ w : Word,
    exec (.hdrEncode v) s = .next { s with qOut := ⟨.word w, .none⟩ } ∧ hdrDecode w = v ∧
    w.toNat = v.start.toNat * 2 ^ 15 + v.recording.toNat * 2 ^ 14 + v.clear13.toNat * 2 ^ 13 +
      v.dataOrResponse.toNat * 2 ^ 12 + v.logCapable.toNat * 2 ^ 11 + v.reserved.toNat * 2 ^ 10 +
      v.clear9.toNat * 2 ^ 9 + v.lengthHigh.toNat * 2 ^ 8 + v.clear7.toNat * 2 ^ 7 + v.lengthLow.toNat

/-- 40_codec.md R140 to R143: the summary of a valid header; `InvalidHeader(bit)` as HDR_VALIDATE
reports it, with `q_result` = NONE beside it by the model's choice (log 27). -/
def Obligations.HdrSummaryDescribesValidHeaders : Prop :=
  ∀ (s : State) (w : Word),
    (w &&& 0xA280#16 = s.params.hdrMatch.word →
      exec (.hdrSummary w) s =
        .next { s with qOut := ⟨.summary {
          isData := w.getLsbD 12, isResponse := !w.getLsbD 12, canLog := w.getLsbD 11
          isRecording := w.getLsbD 14, wordCount := wordCount w }, .none⟩ }) ∧
    (w &&& 0xA280#16 ≠ s.params.hdrMatch.word → exec (.hdrSummary w) s = exec (.hdrValidate w) s)

/-- 40_codec.md R146, 30_encoding.md R92: the count of every word, valid header or not. -/
def Obligations.WordCountReadsEveryWord : Prop :=
  ∀ (s : State) (w : Word), ∃ n : BitVec 8,
    exec (.wordCount w) s = .next { s with qOut := ⟨.count n, .none⟩ } ∧
    n.toNat = w.toNat / 2 ^ 8 % 2 * 2 ^ 7 + w.toNat % 2 ^ 7

/-- 40_codec.md R145: the RESERVED bit changes neither validity nor any summary field, and stays in the words of
a packet. -/
def Obligations.ReservedHeaderBitIsIgnored : Prop :=
  (∀ (m : HdrMatch) (w : Word),
    hdrValidate m (w ^^^ 0x0400#16) = hdrValidate m w ∧ summary (w ^^^ 0x0400#16) = summary w) ∧
  ∀ (lm hdr : Word) (off : Pos) (body : List Word) (P : Packet) (s : State),
    classify lm hdr off body = .packet P → P.hdr = hdr ∧
    (s.dec.pktValid = true → s.dec.pkt = P → body.length ≤ 255 →
      exec .pktWords s = .next { s with qOut := ⟨.words (hdr :: body), .none⟩ })

/-- 40_codec.md R150, R151, 30_encoding.md R95: the function field view, its name and `af_raw`. -/
def Obligations.FunctionCodecFollowsTheLayout : Prop :=
  (∀ (s : State) (w : Word), ∃ (v : FunctionView) (f : FunctionName) (raw : BitVec 8),
    exec (.funcDecode w) s = .next { s with qOut := ⟨.function v f raw, .none⟩ } ∧
    v.s15.toNat = w.toNat / 2 ^ 15 ∧ v.s14.toNat = w.toNat / 2 ^ 14 % 2 ∧
    v.s13.toNat = w.toNat / 2 ^ 13 % 2 ∧ v.func.toNat = w.toNat / 2 ^ 10 % 2 ^ 3 ∧
    v.s9.toNat = w.toNat / 2 ^ 9 % 2 ∧ v.afHigh.toNat = w.toNat / 2 ^ 8 % 2 ∧
    v.mark.toNat = w.toNat / 2 ^ 7 % 2 ∧ v.afLow.toNat = w.toNat % 2 ^ 7 ∧
    [FunctionName.normal, .o2Tenths, .calibratingAir, .calRequired, .warmup, .calibratingHeat, .error,
      .reserved][v.func.toNat]? = some f ∧
    raw.toNat = v.afHigh.toNat * 2 ^ 7 + v.afLow.toNat) ∧
  ∀ (s : State) (v : FunctionView), ∃ w : Word,
    exec (.funcEncode v) s = .next { s with qOut := ⟨.word w, .none⟩ } ∧ funcDecode w = v ∧
    w.toNat = v.s15.toNat * 2 ^ 15 + v.s14.toNat * 2 ^ 14 + v.s13.toNat * 2 ^ 13 + v.func.toNat * 2 ^ 10 +
      v.s9.toNat * 2 ^ 9 + v.afHigh.toNat * 2 ^ 8 + v.mark.toNat * 2 ^ 7 + v.afLow.toNat

/-- 40_codec.md R153, R154: the lambda field view and `lambda_raw`, 13 bits. -/
def Obligations.LambdaCodecFollowsTheLayout : Prop :=
  (∀ (s : State) (w : Word), ∃ (v : LambdaView) (raw : BitVec 13),
    exec (.lambdaDecode w) s = .next { s with qOut := ⟨.lambda v raw, .none⟩ } ∧
    v.s15.toNat = w.toNat / 2 ^ 15 ∧ v.s14.toNat = w.toNat / 2 ^ 14 % 2 ∧
    v.high.toNat = w.toNat / 2 ^ 8 % 2 ^ 6 ∧ v.s7.toNat = w.toNat / 2 ^ 7 % 2 ∧
    v.low.toNat = w.toNat % 2 ^ 7 ∧ raw.toNat = v.high.toNat * 2 ^ 7 + v.low.toNat) ∧
  ∀ (s : State) (v : LambdaView), ∃ w : Word,
    exec (.lambdaEncode v) s = .next { s with qOut := ⟨.word w, .none⟩ } ∧ lambdaDecode w = v ∧
    w.toNat = v.s15.toNat * 2 ^ 15 + v.s14.toNat * 2 ^ 14 + v.high.toNat * 2 ^ 8 + v.s7.toNat * 2 ^ 7 +
      v.low.toNat

/-- 40_codec.md R156, R157: the battery field view and `battery_raw`, 10 bits; a zero divider decodes. -/
def Obligations.BatteryCodecFollowsTheLayout : Prop :=
  (∀ (s : State) (w : Word), ∃ (v : BatteryView) (raw : BitVec 10),
    exec (.battDecode w) s = .next { s with qOut := ⟨.battery v raw, .none⟩ } ∧
    v.s15.toNat = w.toNat / 2 ^ 15 ∧ v.s14.toNat = w.toNat / 2 ^ 14 % 2 ∧
    v.div.toNat = w.toNat / 2 ^ 11 % 2 ^ 3 ∧ v.high.toNat = w.toNat / 2 ^ 8 % 2 ^ 3 ∧
    v.s7.toNat = w.toNat / 2 ^ 7 % 2 ∧ v.low.toNat = w.toNat % 2 ^ 7 ∧
    raw.toNat = v.high.toNat * 2 ^ 7 + v.low.toNat) ∧
  ∀ (s : State) (v : BatteryView), ∃ w : Word,
    exec (.battEncode v) s = .next { s with qOut := ⟨.word w, .none⟩ } ∧ battDecode w = v ∧
    w.toNat = v.s15.toNat * 2 ^ 15 + v.s14.toNat * 2 ^ 14 + v.div.toNat * 2 ^ 11 + v.high.toNat * 2 ^ 8 +
      v.s7.toNat * 2 ^ 7 + v.low.toNat

/-- 40_codec.md R159, R160: the aux field view and `aux_raw`, 10 bits. -/
def Obligations.AuxCodecFollowsTheLayout : Prop :=
  (∀ (s : State) (w : Word), ∃ (v : AuxView) (raw : BitVec 10),
    exec (.auxDecode w) s = .next { s with qOut := ⟨.aux v raw, .none⟩ } ∧
    v.s.toNat = w.toNat / 2 ^ 11 ∧ v.high.toNat = w.toNat / 2 ^ 8 % 2 ^ 3 ∧
    v.s7.toNat = w.toNat / 2 ^ 7 % 2 ∧ v.low.toNat = w.toNat % 2 ^ 7 ∧
    raw.toNat = v.high.toNat * 2 ^ 7 + v.low.toNat) ∧
  ∀ (s : State) (v : AuxView), ∃ w : Word,
    exec (.auxEncode v) s = .next { s with qOut := ⟨.word w, .none⟩ } ∧ auxDecode w = v ∧
    w.toNat = v.s.toNat * 2 ^ 11 + v.high.toNat * 2 ^ 8 + v.s7.toNat * 2 ^ 7 + v.low.toNat

/-- 40_codec.md R165: the round-trip laws of the five kinds, both ways. -/
def Obligations.CodecsRoundTrip : Prop :=
  (∀ w, hdrEncode (hdrDecode w) = w) ∧ (∀ v, hdrDecode (hdrEncode v) = v) ∧
  (∀ w, funcEncode (funcDecode w) = w) ∧ (∀ v, funcDecode (funcEncode v) = v) ∧
  (∀ w, lambdaEncode (lambdaDecode w) = w) ∧ (∀ v, lambdaDecode (lambdaEncode v) = v) ∧
  (∀ w, battEncode (battDecode w) = w) ∧ (∀ v, battDecode (battEncode v) = v) ∧
  (∀ w, auxEncode (auxDecode w) = w) ∧ (∀ v, auxDecode (auxEncode v) = v)

/-- 00_scope.md R18: `fl64` is the binary64 nearest to the exact result, ties to even, among all finite
non-negative binary64 values (values counted in units of 2^-1074). -/
def Obligations.Fl64IsNearestTiesToEven : Prop :=
  ∀ p q : Nat, 0 < q → p < q * 2 ^ 1023 →
    (fl64 p q).toNat < 2 ^ 63 ∧ (fl64 p q).expField < 2047 ∧
    ∀ y : F64, y.toNat < 2 ^ 63 → y.expField < 2047 →
      |((fl64 p q).scaled * q : Int) - p * F64.unitDen| ≤ |(y.scaled * q : Int) - p * F64.unitDen| ∧
      (|((fl64 p q).scaled * q : Int) - p * F64.unitDen| = |(y.scaled * q : Int) - p * F64.unitDen| →
        y ≠ fl64 p q → (fl64 p q).toNat % 2 = 0)

/-- 41_derived.md R170: AUX_VOLTS is one rounding of `raw * 5 / 1023`, +0.0 for raw 0, 5.0 for raw 1023, and
never outside 0.0 to 5.0. -/
def Obligations.AuxVoltsIsOneRounding : Prop :=
  ∀ (s : State) (w : Word), ∃ x : F64,
    exec (.auxVolts w) s = .next { s with qOut := ⟨.real x, .none⟩ } ∧
    x = fl64 ((auxRaw w).toNat * 5) 1023 ∧
    (auxRaw w = 0 → x = 0x0000000000000000#64) ∧ (auxRaw w = 1023 → x = 0x4014000000000000#64) ∧
    x.toNat ≤ 0x4014000000000000

/-- 41_derived.md R171: AUX_PERCENT is `fl64(raw / 1023)`, a fraction from 0.0 to 1.0. -/
def Obligations.AuxPercentIsAFraction : Prop :=
  ∀ (s : State) (w : Word), ∃ x : F64,
    exec (.auxPercent w) s = .next { s with qOut := ⟨.real x, .none⟩ } ∧
    x = fl64 (auxRaw w).toNat 1023 ∧
    (auxRaw w = 0 → x = 0x0000000000000000#64) ∧ (auxRaw w = 1023 → x = 0x3FF0000000000000#64) ∧
    x.toNat ≤ 0x3FF0000000000000

/-- 41_derived.md R172: AUX_RPM is `aux_raw * 10`, exact, 0 to 10230. -/
def Obligations.AuxRpmIsExact : Prop :=
  ∀ (s : State) (w : Word), ∃ n : BitVec 14,
    exec (.auxRpm w) s = .next { s with qOut := ⟨.int n, .none⟩ } ∧
    n.toNat = (auxRaw w).toNat * 10 ∧ n.toNat ≤ 10230

/-- 41_derived.md R173: AF_VALUE by the function: tenths, NONE, or the raw integer unchanged. The product with
the binary64 nearest to 0.10, whose significand is 0x1999999999999A at 2^-56, is rounded once. -/
def Obligations.AfValueFollowsTheFunction : Prop :=
  ∀ (s : State) (w : Word),
    (functionOf w ∈ [FunctionName.o2Tenths, .warmup] →
      exec (.afValue w) s =
        .next { s with qOut := ⟨.real (fl64 ((afRaw w).toNat * 0x1999999999999A) (2 ^ 56)), .none⟩ }) ∧
    (functionOf w ∈ [FunctionName.calibratingAir, .calRequired, .reserved] →
      exec (.afValue w) s = .next { s with qOut := ⟨.none, .none⟩ }) ∧
    (functionOf w ∈ [FunctionName.normal, .calibratingHeat, .error] →
      ∃ n : BitVec 14, n.toNat = (afRaw w).toNat ∧
        exec (.afValue w) s = .next { s with qOut := ⟨.int n, .none⟩ })

/-- 41_derived.md R174: AF_UNITS by the function, NONE where the units are not specified. -/
def Obligations.AfUnitsFollowTheFunction : Prop :=
  ∀ (s : State) (w : Word),
    (functionOf w = .normal → exec (.afUnits w) s = .next { s with qOut := ⟨.units .ratio, .none⟩ }) ∧
    (functionOf w ∈ [FunctionName.o2Tenths, .warmup] →
      exec (.afUnits w) s = .next { s with qOut := ⟨.units .percent, .none⟩ }) ∧
    (functionOf w = .calibratingHeat →
      exec (.afUnits w) s = .next { s with qOut := ⟨.units .count, .none⟩ }) ∧
    (functionOf w ∈ [FunctionName.calibratingAir, .calRequired, .error, .reserved] →
      exec (.afUnits w) s = .next { s with qOut := ⟨.none, .none⟩ })

/-- 41_derived.md R175: PKT_AFR, with its failures in their order. `q_result` = NONE beside an error is the model's
choice (log 27). -/
def Obligations.PacketAfrFollowsTheFormula : Prop :=
  ∀ s : State,
    (s.dec.pktValid = false → exec .pktAfr s = .next { s with qOut := ⟨.none, .noPacket⟩ }) ∧
    (s.dec.pktValid = true →
      (s.dec.pkt.n = 0 ∨ s.dec.pkt.kind[0]? ≠ some .function →
        exec .pktAfr s = .next { s with qOut := ⟨.none, .functionNotNormal none⟩ }) ∧
      ∀ w0 w1 rest, s.dec.pkt.n ≠ 0 → s.dec.pkt.kind[0]? = some .function →
        s.dec.pkt.body = w0 :: w1 :: rest →
        (functionOf w0 ≠ .normal →
          exec .pktAfr s = .next { s with qOut := ⟨.none, .functionNotNormal (some (functionOf w0))⟩ }) ∧
        (functionOf w0 = .normal →
          exec .pktAfr s =
            .next { s with qOut :=
              ⟨.real (fl64 (((lambdaRaw w1).toNat + 500) * (afRaw w0).toNat) 10000), .none⟩ }))

/-- 44_interface.md R280: PKT_WORDS gives the header and the body in order, or NoPacket. `q_result` = NONE beside it
is the model's choice (log 27). -/
def Obligations.PacketWordsAreTheWireWords : Prop :=
  ∀ s : State,
    (s.dec.pktValid = false → exec .pktWords s = .next { s with qOut := ⟨.none, .noPacket⟩ }) ∧
    (s.dec.pktValid = true → s.dec.pkt.body.length = s.dec.pkt.n.toNat →
      exec .pktWords s = .next { s with qOut := ⟨.words (s.dec.pkt.hdr :: s.dec.pkt.body), .none⟩ })

/-- 44_interface.md R282: the reserved query codes. -/
def Obligations.ReservedQueriesAreIllegal : Prop :=
  ∀ (s : State) (sel : BitVec 5) (word fields : Word), 0x14 ≤ sel.toNat →
    exec (decodeQuery sel word fields) s = .next { s with qOut := ⟨.none, .illegalQuery⟩ }

/-! ## The Frame Scanner -/

/-- 42_scanner.md R205: a spent budget fails the seek before any read; the budget is spent exactly when it is
enabled and `SEEKCNT` has reached `MAX_BYTES`. -/
def Obligations.SpentBudgetRaisesSyncTimeout : Prop :=
  ∀ s : State, s.dec.st = .seek →
    (s.dec.budgetSpent = true ↔ s.dec.budgetEn = true ∧ s.dec.maxBytes ≤ s.dec.seekCnt) ∧
    (s.dec.budgetSpent = true →
      exec .scanByte s =
        .next { s with dec := { s.dec with
          errValid := true, errCode := 3, errInfo := ⟨s.dec.pos, s.dec.seekCnt⟩, st := .idle } })

/-- 42_scanner.md R204: the end of the stream while seeking, also after the first byte of a header. -/
def Obligations.EndOfStreamWhileSeekingRaisesStreamEnded : Prop :=
  ∀ (s : State) (rest : List Answer), s.dec.st = .seek → s.dec.budgetSpent = false → s.source = .eos :: rest →
    exec .scanByte s =
      .next { s with
        source := rest
        dec := { s.dec with
          errValid := true, errCode := 2, errInfo := ⟨s.dec.pos, s.dec.seekCnt⟩, st := .idle } }

/-- 42_scanner.md R208, 10_state.md R32: a window that is no header changes only `SR`, `SEEKCNT` (saturating)
and `POS`. -/
def Obligations.InvalidWindowIsSwallowed : Prop :=
  ∀ (s : State) (b : Byte) (rest : List Answer), s.dec.st = .seek → s.dec.budgetSpent = false →
    s.source = .byte b :: rest → scanWindow s.dec.sr b &&& 0xA280#16 ≠ s.params.hdrMatch.word →
    exec .scanByte s =
      .next { s with
        source := rest
        dec := { s.dec with
          sr := s.dec.sr <<< 8 ||| b.setWidth 16
          seekCnt := BitVec.ofNat 32 (min (s.dec.seekCnt.toNat + 1) (2 ^ 32 - 1))
          pos := s.dec.pos + 1 } }

/-- 42_scanner.md R202, R203: a window that is a valid header is latched with its offset; the body follows, or an
empty packet is emitted. That HEADER `w` is this same step is the model's choice (log 13). -/
def Obligations.ValidWindowLatchesTheHeader : Prop :=
  ∀ (s : State) (b : Byte) (rest : List Answer) (w : Word), s.dec.st = .seek → s.dec.budgetSpent = false →
    s.source = .byte b :: rest → w = s.dec.sr <<< 8 ||| b.setWidth 16 →
    w &&& 0xA280#16 = s.params.hdrMatch.word →
    ∀ i ∈ [Instr.scanByte, .header w],
      (wordCount w ≠ 0 →
        exec i s =
          .next { s with
            source := rest
            dec := { s.dec with
              sr := w, seekCnt := BitVec.ofNat 32 (min (s.dec.seekCnt.toNat + 1) (2 ^ 32 - 1))
              pos := s.dec.pos + 1, hdr := w, hdrOff := s.dec.pos - 1, bcnt := 0, st := .body } }) ∧
      (wordCount w = 0 →
        exec i s =
          .next { s with
            source := rest
            dec := { s.dec with
              sr := w, seekCnt := BitVec.ofNat 32 (min (s.dec.seekCnt.toNat + 1) (2 ^ 32 - 1))
              pos := s.dec.pos + 1, hdr := w, hdrOff := s.dec.pos - 1, bcnt := 0, st := .idle
              pktValid := true
              pkt := { hdr := w, off := s.dec.pos - 1, n := 0, body := [], kind := [], chan := [] } } })

/-- 42_scanner.md R209: while the source withholds its answer the decoder stays as it is, in SEEK and in BODY,
for any number of its turns. -/
def Obligations.SilentSourceSuspendsTheDecoder : Prop :=
  ∀ (s : State) (k : Nat), s.source = [] →
    (s.dec.st = .seek ∧ s.dec.budgetSpent = false) ∨ s.dec.st = .body →
    decoderRun k s = .next { s with turns := [] }

/-- 42_scanner.md R206: the scan reports the first valid header at any byte offset, within the budget, and every
byte before it is consumed. -/
def Obligations.ScanFindsTheFirstHeader : Prop :=
  ∀ (s : State) (before : List Byte) (hi lo : Byte) (rest : List Answer),
    s.dec.st = .seek → s.dec.sr = 0 → s.dec.seekCnt = 0 →
    s.source = (before ++ [hi, lo]).map .byte ++ rest →
    hdrValid s.params.hdrMatch (Word.ofBytes hi lo) = true →
    (∀ (j : Nat) (x y : Byte), j < before.length → (before ++ [hi, lo])[j]? = some x →
      (before ++ [hi, lo])[j + 1]? = some y → hdrValid s.params.hdrMatch (Word.ofBytes x y) = false) →
    (s.dec.budgetEn = true → before.length + 2 ≤ s.dec.maxBytes.toNat) →
    ∃ t, decoderRun (before.length + 2) s = .next t ∧
      t.dec.hdr = Word.ofBytes hi lo ∧ t.dec.hdrOff = s.dec.pos + BitVec.ofNat 32 before.length ∧
      t.dec.pos = s.dec.pos + BitVec.ofNat 32 (before.length + 2) ∧ t.source = rest ∧ t.dec.bcnt = 0 ∧
      (wordCount (Word.ofBytes hi lo) ≠ 0 →
        t.dec.st = .body ∧ t.dec.pktValid = s.dec.pktValid ∧ t.dec.errValid = s.dec.errValid) ∧
      (wordCount (Word.ofBytes hi lo) = 0 → t.dec.st = .idle ∧ t.dec.pktValid = true ∧
        t.dec.pkt = { hdr := Word.ofBytes hi lo, off := s.dec.pos + BitVec.ofNat 32 before.length, n := 0
                      body := [], kind := [], chan := [] })

/-- 42_scanner.md R205: whatever the stream, a seek from its start reads at most `MAX_BYTES` bytes before it
fails or has found a header. -/
def Obligations.SeekNeverExceedsTheBudget : Prop :=
  ∀ (s t : State) (k : Nat), s.dec.st = .seek → s.dec.seekCnt = 0 → s.dec.budgetEn = true →
    decoderRun k s = .next t → t.dec.st = .seek →
    t.dec.seekCnt.toNat ≤ s.dec.maxBytes.toNat ∧
    t.dec.pos = s.dec.pos + t.dec.seekCnt ∧ t.source = s.source.drop t.dec.seekCnt.toNat

/-! ## The Packet Assembler -/

/-- 43_assembler.md R233: the end of the stream inside the declared body. -/
def Obligations.EndOfStreamInBodyRaisesTruncatedStream : Prop :=
  ∀ (s : State) (rest : List Answer), s.dec.st = .body → s.dec.bcnt.toNat < 2 * s.dec.bodyWords →
    s.source = .eos :: rest →
    ∃ d : BitVec 32, d.toNat = s.dec.bcnt.toNat ∧
      exec .bodyByte s =
        .next { s with
          source := rest
          dec := { s.dec with errValid := true, errCode := 4, errInfo := ⟨s.dec.hdrOff, d⟩, st := .idle } }

/-- 43_assembler.md R231: a high byte waits in HIBYTE; a low byte completes its word, `{HIBYTE, b}`, and stores it
at its index, and every other entry of BODYBUF reads as before. That the class of the word at its place
(30_encoding.md R100) is an operation of its own, and runs as this same step, is the model's choice (log 13). -/
def Obligations.BodyBytesAreStoredAsWords : Prop :=
  (∀ (s : State) (b : Byte) (rest : List Answer), s.dec.st = .body →
    s.dec.bcnt.toNat < 2 * s.dec.bodyWords → s.source = .byte b :: rest → s.dec.bcnt.toNat % 2 = 0 →
    exec .bodyByte s =
      .next { s with
        source := rest
        dec := { s.dec with pos := s.dec.pos + 1, bcnt := s.dec.bcnt + 1, hibyte := b } }) ∧
  ∀ (s : State) (b : Byte) (rest : List Answer) (w : Word) (c : WordClass), s.dec.st = .body →
    s.dec.bcnt.toNat + 1 < 2 * s.dec.bodyWords → s.source = .byte b :: rest → s.dec.bcnt.toNat % 2 = 1 →
    w = s.dec.hibyte ++ b → wordClass s.params.lmMask s.bodyPlace w = c →
    ∀ i : Instr,
      i ∈ (Instr.bodyByte :: match c with
        | .lm1 => [Instr.lm1Word0 w]
        | .function => [.functionWord w]
        | .lambda => [.lambdaWord w]
        | .battery => [.batteryWord w]
        | .aux => [.auxWord w]) →
      ∃ m : Memory,
        exec i s =
          .next { s with
            source := rest
            dec := { s.dec with pos := s.dec.pos + 1, bcnt := s.dec.bcnt + 1, bodyBuf := m } } ∧
        m.read (s.dec.bcnt.toNat / 2) = some w ∧
        ∀ j, j ≠ s.dec.bcnt.toNat / 2 → m.read j = s.dec.bodyBuf.read j

/-- 43_assembler.md R231: the last byte completes the body and ends the frame as classification decides, in the
same step, on the words in arrival order. That the class of the word at its place (30_encoding.md R100) is an
operation of its own, and runs as this same step, is the model's choice (log 13). -/
def Obligations.LastBodyByteClassifiesTheFrame : Prop :=
  ∀ (s : State) (b : Byte) (rest : List Answer) (w : Word) (c : WordClass) (ws : List Word), s.dec.st = .body →
    s.dec.bcnt.toNat + 1 = 2 * s.dec.bodyWords → s.source = .byte b :: rest →
    w = s.dec.hibyte ++ b → wordClass s.params.lmMask s.bodyPlace w = c →
    ws.length + 1 = s.dec.bodyWords → (∀ j, j < ws.length → s.dec.bodyBuf.read j = ws[j]?) →
    ∀ i : Instr,
      i ∈ (Instr.bodyByte :: match c with
        | .lm1 => [Instr.lm1Word0 w]
        | .function => [.functionWord w]
        | .lambda => [.lambdaWord w]
        | .battery => [.batteryWord w]
        | .aux => [.auxWord w]) →
      ∃ m : Memory,
        exec i s =
          .next { s with
            source := rest
            dec := Decoder.deliver (classify s.params.lmMask s.dec.hdr s.dec.hdrOff (ws ++ [w]))
              { s.dec with pos := s.dec.pos + 1, bcnt := s.dec.bcnt + 1, bodyBuf := m } } ∧
        m.read (s.dec.bcnt.toNat / 2) = some w ∧
        ∀ j, j ≠ s.dec.bcnt.toNat / 2 → m.read j = s.dec.bodyBuf.read j

/-- 43_assembler.md R236: CLASSIFY, case by case. -/
def Obligations.ClassifyEndsTheFrame : Prop :=
  ∀ (hdr : Word) (off : Pos) (body : List Word) (s : State),
    body.length = (wordCount hdr).toNat → s.dec.st = (if body = [] then .seek else .body) →
    (body = [] →
      exec (.classify hdr off body) s =
        .next { s with dec := { s.dec with
          st := .idle, pktValid := true
          pkt := { hdr := hdr, off := off, n := 0, body := [], kind := [], chan := [] } } }) ∧
    ∀ w0 rest, body = w0 :: rest →
      (w0 &&& s.params.lmMask ≠ 0 →
        exec (.classify hdr off body) s =
          .next { s with dec := { s.dec with
            st := .idle, errValid := true, errCode := 5, errInfo := ⟨off, BitVec.ofNat 32 w0.toNat⟩ } }) ∧
      (w0 &&& s.params.lmMask = 0 → w0.getLsbD 7 = true → rest = [] →
        exec (.classify hdr off body) s =
          .next { s with dec := { s.dec with
            st := .idle, errValid := true, errCode := 4, errInfo := ⟨off, 2⟩ } }) ∧
      (w0 &&& s.params.lmMask = 0 → w0.getLsbD 7 = true →
        ∀ w1 aux, rest = w1 :: aux → (∀ w2 more, aux = w2 :: more → w2 &&& 0x3800#16 = 0) →
        exec (.classify hdr off body) s =
          .next { s with dec := { s.dec with
            st := .idle, pktValid := true
            pkt := {
              hdr := hdr, off := off, n := wordCount hdr, body := body
              kind := [.function, .lambda] ++ aux.map fun _ => .aux
              chan := [0, 0] ++ (List.range aux.length).map fun c => BitVec.ofNat 8 (c + 1) } } }) ∧
      (w0 &&& s.params.lmMask = 0 → w0.getLsbD 7 = true →
        ∀ w1 w2 aux, rest = w1 :: w2 :: aux → w2 &&& 0x3800#16 ≠ 0 →
        exec (.classify hdr off body) s =
          .next { s with dec := { s.dec with
            st := .idle, pktValid := true
            pkt := {
              hdr := hdr, off := off, n := wordCount hdr, body := body
              kind := [.function, .lambda, .battery] ++ aux.map fun _ => .aux
              chan := [0, 0, 0] ++ (List.range aux.length).map fun c => BitVec.ofNat 8 (c + 1) } } }) ∧
      (w0 &&& s.params.lmMask = 0 → w0.getLsbD 7 = false →
        exec (.classify hdr off body) s =
          .next { s with dec := { s.dec with
            st := .idle, pktValid := true
            pkt := {
              hdr := hdr, off := off, n := wordCount hdr, body := body
              kind := body.map fun _ => .aux
              chan := (List.range body.length).map fun c => BitVec.ofNat 8 (c + 1) } } })

/-- 43_assembler.md R237: a packet that classification emits keeps the packet invariants. -/
def Obligations.EmittedPacketsKeepTheInvariants : Prop :=
  ∀ (p : Params) (hdr : Word) (off : Pos) (body : List Word) (P : Packet),
    hdrValid p.hdrMatch hdr = true → body.length = (wordCount hdr).toNat →
    classify p.lmMask hdr off body = .packet P → PacketOk p P ∧ P.hdr = hdr ∧ P.off = off ∧ P.body = body

/-- 30_encoding.md R100: the class of a word at its place is the kind that classification records for it; a word
0 with the LM-1 marker fails the frame. -/
def Obligations.PositionalClassesAreTheKinds : Prop :=
  ∀ (lm hdr : Word) (off : Pos) (body : List Word),
    (∀ P, classify lm hdr off body = .packet P →
      ∀ (j : Nat) (w : Word), body[j]? = some w →
        ∃ k, P.kind[j]? = some k ∧ wordClass lm ⟨j, startsWithFunction lm body⟩ w = classOfKind k) ∧
    (∀ w0 rest, body = w0 :: rest → wordClass lm ⟨0, startsWithFunction lm body⟩ w0 = .lm1 →
      classify lm hdr off body = .error .unsupportedVariant ⟨off, w0.setWidth 32⟩)

/-- 60_exceptions.md R310: the priority of simultaneous causes. `q_result` = NONE beside a query's error is the
model's choice (log 27). -/
def Obligations.ErrorPriorityIsAsListed : Prop :=
  (∀ (s : State) (rest : List Answer), s.dec.st = .seek → s.dec.budgetSpent = true → s.source = .eos :: rest →
    ∃ t, exec .scanByte s = .next t ∧ t.dec.errCode = ErrorKind.syncTimeout.code ∧ t.source = s.source) ∧
  (∀ (m : HdrMatch) (w : Word) (before after : List Nat) (bit : Nat), [15, 13, 9, 7] = before ++ bit :: after →
    (∀ j ∈ before, w.getLsbD j = m.word.getLsbD j) → w.getLsbD bit ≠ m.word.getLsbD bit →
    hdrValidate m w = .invalid bit) ∧
  (∀ (lm hdr w0 : Word) (off : Pos), w0 &&& lm ≠ 0 → w0.getLsbD 7 = true →
    classify lm hdr off [w0] = .error .unsupportedVariant ⟨off, w0.setWidth 32⟩) ∧
  (∀ s : State, s.dec.pkt.n = 0 ∨ s.dec.pkt.kind[0]? ≠ some .function →
    (s.dec.pktValid = false → exec .pktAfr s = .next { s with qOut := ⟨.none, .noPacket⟩ }) ∧
    (s.dec.pktValid = true → exec .pktAfr s = .next { s with qOut := ⟨.none, .functionNotNormal none⟩ }))

/-- 43_assembler.md R232, 10_state.md R36: a body on the wire is read as its words, most significant byte first,
in `2n` steps, and ends as classification decides. -/
def Obligations.BodyOnTheWireIsReadAsItsWords : Prop :=
  ∀ (s : State) (words : List Word) (rest : List Answer),
    s.dec.st = .body → s.dec.bcnt = 0 → words ≠ [] → words.length = s.dec.bodyWords →
    s.source = (wireBytes words).map .byte ++ rest →
    ∃ t, decoderRun (2 * words.length) s = .next t ∧ t.dec.st = .idle ∧ t.source = rest ∧
      t.dec.pos = s.dec.pos + BitVec.ofNat 32 (2 * words.length) ∧
      t.dec.sr = s.dec.sr ∧ t.dec.seekCnt = s.dec.seekCnt ∧ t.dec.hdr = s.dec.hdr ∧
      t.dec.hdrOff = s.dec.hdrOff ∧
      (∀ P, classify s.params.lmMask s.dec.hdr s.dec.hdrOff words = .packet P →
        t.dec.pktValid = true ∧ t.dec.pkt = P ∧ t.dec.errValid = s.dec.errValid) ∧
      (∀ e info, classify s.params.lmMask s.dec.hdr s.dec.hdrOff words = .error e info →
        t.dec.errValid = true ∧ t.dec.errCode = e.code ∧ t.dec.errInfo = info ∧
        t.dec.pktValid = s.dec.pktValid ∧ t.dec.pkt = s.dec.pkt)

/-- 44_interface.md R271, R280, 70_reset_and_hazards.md R351: a frame on the wire, after any bytes that form no
earlier header, is handed over in `k` scan steps and `2n` body steps and no fewer; the byte image of the
packet's words is the frame as received. -/
def Obligations.FrameOnTheWireIsHandedOver : Prop :=
  ∀ (s : State) (before : List Byte) (hdr : Word) (body : List Word) (rest : List Answer),
    s.dec.st = .seek → s.dec.sr = 0 → s.dec.seekCnt = 0 → s.dec.pktValid = false → s.dec.errValid = false →
    s.source = (before ++ wireBytes (hdr :: body)).map .byte ++ rest →
    hdrValid s.params.hdrMatch hdr = true → body.length = (wordCount hdr).toNat →
    (∀ (j : Nat) (x y : Byte), j < before.length → (before ++ [hdr.hi, hdr.lo])[j]? = some x →
      (before ++ [hdr.hi, hdr.lo])[j + 1]? = some y →
      hdrValid s.params.hdrMatch (Word.ofBytes x y) = false) →
    (s.dec.budgetEn = true → before.length + 2 ≤ s.dec.maxBytes.toNat) →
    (∃ t, decoderRun (before.length + 2 + 2 * body.length) s = .next t ∧
      t.dec.st = .idle ∧ t.source = rest ∧
      (∀ P, classify s.params.lmMask hdr (s.dec.pos + BitVec.ofNat 32 before.length) body = .packet P →
        t.dec.pktValid = true ∧ t.dec.errValid = false ∧ t.dec.pkt = P ∧
        packetBytes t.dec.pkt = wireBytes (hdr :: body) ∧
        ∀ u, exec .pktWords t = .next u → u.qOut = ⟨.words (hdr :: body), .none⟩) ∧
      (∀ e info, classify s.params.lmMask hdr (s.dec.pos + BitVec.ofNat 32 before.length) body = .error e info →
        t.dec.pktValid = false ∧ t.dec.errValid = true ∧ t.dec.errCode = e.code ∧ t.dec.errInfo = info)) ∧
    ∀ k, k < before.length + 2 + 2 * body.length → ∃ u, decoderRun k s = .next u ∧ u.dec.st ≠ .idle

/-! ## The whole machine -/

/-- A step runs the operation that the next turn's bits decode to (30_encoding.md R91, R100, R110, R111;
70_reset_and_hazards.md R350). Turns are the model's (log 1), and so is that the SCAN_BYTE or BODY_BYTE step which
completes a word runs as the operation HEADER or the word's class (log 13). -/
def Obligations.StepRunsTheDecodedOperation : Prop :=
  ∀ s : State,
    (s.turns = [] → step s = .next s) ∧
    ∀ ts, let s' := { s with turns := ts }
      (∀ cmd arg, s.turns = .command cmd arg :: ts → step s = exec (decodeCommand cmd arg) s') ∧
      (∀ sel word fields, s.turns = .query sel word fields :: ts →
        step s = exec (decodeQuery sel word fields) s') ∧
      (s.turns = .resetInput :: ts → step s = exec .reset s') ∧
      (s.turns = .decoder :: ts →
        (s.dec.st = .idle → step s = .next s') ∧
        (s.dec.st = .seek → s.dec.budgetSpent = true → step s = exec .scanByte s') ∧
        (s.dec.st = .seek → s.dec.budgetSpent = false → ∀ a rest, s.source = a :: rest →
          (∀ b i, a = .byte b → decodeWindow s.params (scanWindow s.dec.sr b) = .ok i → step s = exec i s') ∧
          (∀ b e, a = .byte b → decodeWindow s.params (scanWindow s.dec.sr b) = .error e →
            step s = exec .scanByte s') ∧
          (a = .eos → step s = exec .scanByte s')) ∧
        (s.dec.st = .body → ∀ a rest, s.source = a :: rest →
          (∀ b, a = .byte b → s.dec.bcnt.toNat % 2 = 1 →
            step s = exec (decodeBodyWord s.params s.bodyPlace (s.dec.hibyte ++ b)) s') ∧
          (∀ b, a = .byte b → s.dec.bcnt.toNat % 2 = 0 → step s = exec .bodyByte s') ∧
          (a = .eos → step s = exec .bodyByte s')))

/-- A word of the opcode table placed where step takes its next operation is the operation that step runs; how it
is placed, read and run there is the model's choice (log 4, log 12, log 13). -/
def Obligations.PlacedTableWordIsRun : Prop :=
  ∀ (s : State) (nbits w : Nat) (i : Instr), s.params = Params.spec → decodeTableWord nbits w = some i →
    step (s.withFetchWord nbits w) = exec i { s.withFetchWord nbits w with turns := s.turns }

/-- Codes and words of the spec's encodings decode to the operations they stand for. That FUNC_ENCODE's view stands
in `q_fields` as the word 0x1190 is the model's packing (log 10). -/
def Obligations.SpecEncodingsDecode : Prop :=
  decodeCommand 0x1#4 0 = .decodeNext ∧ decodeCommand 0x2#4 16 = .setBudget 16 ∧
  decodeCommand 0x7#4 0 = .reservedCmd7 ∧ decodeCommand 0xF#4 0 = .reset ∧
  decodeQuery 0x0D#5 0x037F#16 0 = .auxVolts 0x037F#16 ∧ decodeQuery 0x12#5 0 0 = .pktAfr ∧
  decodeQuery 0x06#5 0 0x1190#16 = .funcEncode ⟨0, 0, 0, 4, 0, 1, 1, 0x10⟩ ∧
  decodeQuery 0x15#5 0 0 = .reservedQ15 ∧
  decode Params.spec .window [0x90#8, 0x02#8] = .ok (.header 0x9002#16, []) ∧
  decode Params.spec .window [0x80#8, 0x80#8] = .error (.invalidHeader 7) ∧
  decode Params.spec (.body ⟨0, false⟩) [0x20#8, 0xE4#8] = .ok (.lm1Word0 0x20E4#16, []) ∧
  decode Params.spec (.body ⟨0, false⟩) [0x00#8, 0xE4#8] = .ok (.functionWord 0x00E4#16, []) ∧
  decode Params.spec (.body ⟨1, true⟩) [0x07#8, 0x68#8] = .ok (.lambdaWord 0x0768#16, []) ∧
  decode Params.spec (.body ⟨2, true⟩) [0x0A#8, 0x05#8] = .ok (.batteryWord 0x0A05#16, []) ∧
  decode Params.spec (.body ⟨2, true⟩) [0x03#8, 0x7F#8] = .ok (.auxWord 0x037F#16, [])

/-- Decoding an encoding gives the operation back, for every well-formed operation that has an encoding, with
every operand at every value; and every body word at every place decodes, with no bit dropped. The byte form of
commands and queries (log 11) and the packing of `q_fields` (log 10) are the model's choice. -/
def Obligations.DecodeInvertsEncode : Prop :=
  (∀ (p : Params) (i : Instr) (port : Port) (bs rest : List Byte), i.wf p = true → encode i = some (port, bs) →
    decode p port (bs ++ rest) = .ok (i, rest)) ∧
  (∀ i : Instr, encode i = none → i = .scanByte ∨ i = .bodyByte ∨ ∃ hdr off body, i = .classify hdr off body) ∧
  ∀ (p : Params) (pl : Place) (w w' : Word), decodeBodyWord p pl w = decodeBodyWord p pl w' → w = w'

/-- The invariant holds after reset. -/
def Obligations.ResetKeepsTheInvariant : Prop := State.reset.Inv

/-- Every step keeps the invariant: the state machine's register stays legal, the valid flags exclude each other
and are clear while busy, the error registers hold a decode's error or nothing, a packet held keeps the packet
invariants, BODYBUF keeps its canonical form, the budget bounds the seek, and a frame in progress is one. -/
def Obligations.EveryStepKeepsTheInvariant : Prop := ∀ s t : State, s.Inv → step s = .next t → t.Inv

/-- From a state with the invariant no step faults and none is refused, but that the byte source may break its
protocol by answering without a request (70_reset_and_hazards.md R346). -/
def Obligations.NoStepFaultsUnderTheInvariant : Prop :=
  ∀ s : State, s.Inv →
    (∃ t, step s = .next t) ∨
    (step s = .fault .answerWithoutRequest ∧ s.withdrawn = 0 ∧ ∃ ts, s.turns = .lateAnswer :: ts)

/-- 44_interface.md R277: a decode in progress, on a stream that ends, completes: after at most one step for each
byte and one more the block is IDLE with exactly one of PKT_VALID and ERR_VALID. -/
def Obligations.EveryDecodeCompletes : Prop :=
  ∀ (s : State) (bytes : List Byte) (rest : List Answer), s.Inv → s.dec.busy = true →
    s.source = bytes.map .byte ++ .eos :: rest →
    ∃ k t, k ≤ bytes.length + 1 ∧ decoderRun k s = .next t ∧ t.dec.st = .idle ∧
      t.dec.pktValid = !t.dec.errValid

/-- 10_state.md R36: on the decoder's turn a byte answered is consumed and POS counts it; EOS is consumed from
the answers and POS stays; otherwise neither moves. -/
def Obligations.PosCountsTheBytesConsumed : Prop :=
  ∀ (s t : State) (ts : List Turn), s.turns = .decoder :: ts → step s = .next t →
    (∃ b, s.source = .byte b :: t.source ∧ t.dec.pos = s.dec.pos + 1) ∨
    (s.source = .eos :: t.source ∧ t.dec.pos = s.dec.pos) ∨
    (t.source = s.source ∧ t.dec.pos = s.dec.pos)

/-- 70_reset_and_hazards.md R341, 44_interface.md R278: an idle block reads nothing and stays idle until a
DECODE_NEXT is accepted. -/
def Obligations.OnlyDecodeNextLeavesIdle : Prop :=
  ∀ s t : State, s.dec.st = .idle → step s = .next t →
    (t.dec.st = .idle ∨ (t.dec.st = .seek ∧ ∃ arg ts, s.turns = .command 0x1#4 arg :: ts)) ∧
    (t.source = s.source ∨ ∃ ts, s.turns = .lateAnswer :: ts) ∧
    (t.dec.pos = s.dec.pos ∨ (∃ ts, s.turns = .resetInput :: ts) ∨ ∃ arg ts, s.turns = .command 0xF#4 arg :: ts)

/-- 42_scanner.md R207, 43_assembler.md R234: bytes read in BODY are never tested as headers and not counted
against the budget. -/
def Obligations.BodyBytesAreNotScanned : Prop :=
  ∀ (s t : State) (ts : List Turn), s.dec.st = .body → s.turns = .decoder :: ts → step s = .next t →
    t.dec.sr = s.dec.sr ∧ t.dec.seekCnt = s.dec.seekCnt ∧ t.dec.hdr = s.dec.hdr ∧
    t.dec.hdrOff = s.dec.hdrOff ∧ (t.dec.st = .body ∨ t.dec.st = .idle)

/-- 43_assembler.md R241, R238: PKT is written only whole, by the step that emits it and sets PKT_VALID in a
decode; a frame that fails, a command and a query leave it. A reset gives it the model's reset value (log 5). -/
def Obligations.PacketIsWrittenOnlyByEmit : Prop :=
  ∀ s t : State, step s = .next t →
    t.dec.pkt = s.dec.pkt ∨
    (s.dec.busy = true ∧ (∃ ts, s.turns = .decoder :: ts) ∧ t.dec.st = .idle ∧ t.dec.pktValid = true) ∨
    t.dec = Decoder.reset

/-- 10_state.md R39, 70_reset_and_hazards.md R342: the configuration registers are written only by SET_BUDGET,
CLEAR_BUDGET and reset, and the parameters never change. -/
def Obligations.ConfigurationIsWrittenOnlyByCommands : Prop :=
  ∀ s t : State, step s = .next t →
    t.params = s.params ∧
    ((t.dec.budgetEn = s.dec.budgetEn ∧ t.dec.maxBytes = s.dec.maxBytes) ∨
     (∃ k ts, s.turns = .command 0x2#4 k :: ts ∧ t.dec.budgetEn = true ∧ t.dec.maxBytes = k) ∨
     (∃ k ts, s.turns = .command 0x3#4 k :: ts ∧ t.dec.budgetEn = false ∧
        t.dec.maxBytes = s.dec.maxBytes) ∨
     ((∃ ts, s.turns = .resetInput :: ts) ∨ ∃ k ts, s.turns = .command 0xF#4 k :: ts) ∧
        t.dec.budgetEn = false ∧ t.dec.maxBytes = 0)
end

