-- ==== Sys2Proof/Laws/Codec.lean ====
section
/-! SUPPORT. The byte order and the field views: the lemmas that the encodings rest on. -/

namespace Sys2Proof

@[simp] theorem Word.ofBytes_hi_lo (w : Word) : Word.ofBytes w.hi w.lo = w := by
  unfold Word.ofBytes Word.hi Word.lo
  apply BitVec.eq_of_getLsbD_eq
  intro i hi
  simp only [BitVec.getLsbD_append, BitVec.getLsbD_extractLsb']
  interval_cases i <;> simp

@[simp] theorem Word.hi_ofBytes (hi lo : Byte) : (Word.ofBytes hi lo).hi = hi := by
  unfold Word.ofBytes Word.hi
  apply BitVec.eq_of_getLsbD_eq
  intro i hi
  simp only [BitVec.getLsbD_append, BitVec.getLsbD_extractLsb']
  interval_cases i <;> simp

@[simp] theorem Word.lo_ofBytes (hi lo : Byte) : (Word.ofBytes hi lo).lo = lo := by
  unfold Word.ofBytes Word.lo
  apply BitVec.eq_of_getLsbD_eq
  intro i hi
  simp only [BitVec.getLsbD_append, BitVec.getLsbD_extractLsb']
  interval_cases i <;> simp

/-- `HDR_DECODE (HDR_ENCODE h)` gives back every field (40_codec.md R132). -/
@[simp] theorem hdrDecode_hdrEncode (h : HeaderView) : hdrDecode (hdrEncode h) = h := by
  cases h
  simp only [hdrDecode, hdrEncode, HeaderView.mk.injEq]
  refine ⟨?_, ?_, ?_, ?_, ?_, ?_, ?_, ?_, ?_, ?_⟩ <;>
    (apply BitVec.eq_of_getLsbD_eq
     intro i hi
     simp only [BitVec.getLsbD_append, BitVec.getLsbD_extractLsb']
     interval_cases i <;> simp)

/-- `FUNC_DECODE (FUNC_ENCODE f)` gives back every field (40_codec.md R151). -/
@[simp] theorem funcDecode_funcEncode (f : FunctionView) : funcDecode (funcEncode f) = f := by
  cases f
  simp only [funcDecode, funcEncode, FunctionView.mk.injEq]
  refine ⟨?_, ?_, ?_, ?_, ?_, ?_, ?_, ?_⟩ <;>
    (apply BitVec.eq_of_getLsbD_eq
     intro i hi
     simp only [BitVec.getLsbD_append, BitVec.getLsbD_extractLsb']
     interval_cases i <;> simp)

/-- `LAMBDA_DECODE (LAMBDA_ENCODE l)` gives back every field (40_codec.md R154). -/
@[simp] theorem lambdaDecode_lambdaEncode (l : LambdaView) : lambdaDecode (lambdaEncode l) = l := by
  cases l
  simp only [lambdaDecode, lambdaEncode, LambdaView.mk.injEq]
  refine ⟨?_, ?_, ?_, ?_, ?_⟩ <;>
    (apply BitVec.eq_of_getLsbD_eq
     intro i hi
     simp only [BitVec.getLsbD_append, BitVec.getLsbD_extractLsb']
     interval_cases i <;> simp)

/-- `BATT_DECODE (BATT_ENCODE b)` gives back every field (40_codec.md R157). -/
@[simp] theorem battDecode_battEncode (b : BatteryView) : battDecode (battEncode b) = b := by
  cases b
  simp only [battDecode, battEncode, BatteryView.mk.injEq]
  refine ⟨?_, ?_, ?_, ?_, ?_, ?_⟩ <;>
    (apply BitVec.eq_of_getLsbD_eq
     intro i hi
     simp only [BitVec.getLsbD_append, BitVec.getLsbD_extractLsb']
     interval_cases i <;> simp)

/-- `AUX_DECODE (AUX_ENCODE a)` gives back every field (40_codec.md R160). -/
@[simp] theorem auxDecode_auxEncode (a : AuxView) : auxDecode (auxEncode a) = a := by
  cases a
  simp only [auxDecode, auxEncode, AuxView.mk.injEq]
  refine ⟨?_, ?_, ?_, ?_⟩ <;>
    (apply BitVec.eq_of_getLsbD_eq
     intro i hi
     simp only [BitVec.getLsbD_append, BitVec.getLsbD_extractLsb']
     interval_cases i <;> simp)

/-- Two words with the same bits are the same word. -/
theorem word_eq {v w : Word} (h : ∀ i, i < 16 → v.getLsbD i = w.getLsbD i) : v = w := BitVec.eq_of_getLsbD_eq h

/-- Encoding the decoding of a word gives the word (40_codec.md R165, R131, R132). -/
@[simp] theorem hdrEncode_hdrDecode (w : Word) : hdrEncode (hdrDecode w) = w :=
  word_eq fun i hi => by
    simp only [hdrEncode, hdrDecode, BitVec.getLsbD_append, BitVec.getLsbD_extractLsb']
    interval_cases i <;> simp

/-- The round-trip laws of the header codec (40_codec.md R165). -/
theorem hdr_roundTrips : RoundTrips hdrDecode hdrEncode := ⟨hdrEncode_hdrDecode, hdrDecode_hdrEncode⟩

/-- Encoding the decoding of a word gives the word (40_codec.md R165, R150, R151). -/
@[simp] theorem funcEncode_funcDecode (w : Word) : funcEncode (funcDecode w) = w :=
  word_eq fun i hi => by
    simp only [funcEncode, funcDecode, BitVec.getLsbD_append, BitVec.getLsbD_extractLsb']
    interval_cases i <;> simp

/-- The round-trip laws of the function codec (40_codec.md R165). -/
theorem func_roundTrips : RoundTrips funcDecode funcEncode := ⟨funcEncode_funcDecode, funcDecode_funcEncode⟩

/-- Encoding the decoding of a word gives the word (40_codec.md R165, R153, R154). -/
@[simp] theorem lambdaEncode_lambdaDecode (w : Word) : lambdaEncode (lambdaDecode w) = w :=
  word_eq fun i hi => by
    simp only [lambdaEncode, lambdaDecode, BitVec.getLsbD_append, BitVec.getLsbD_extractLsb']
    interval_cases i <;> simp

/-- The round-trip laws of the lambda codec (40_codec.md R165). -/
theorem lambda_roundTrips : RoundTrips lambdaDecode lambdaEncode := ⟨lambdaEncode_lambdaDecode, lambdaDecode_lambdaEncode⟩

/-- Encoding the decoding of a word gives the word (40_codec.md R165, R156, R157). -/
@[simp] theorem battEncode_battDecode (w : Word) : battEncode (battDecode w) = w :=
  word_eq fun i hi => by
    simp only [battEncode, battDecode, BitVec.getLsbD_append, BitVec.getLsbD_extractLsb']
    interval_cases i <;> simp

/-- The round-trip laws of the battery codec (40_codec.md R165). -/
theorem batt_roundTrips : RoundTrips battDecode battEncode := ⟨battEncode_battDecode, battDecode_battEncode⟩

/-- Encoding the decoding of a word gives the word (40_codec.md R165, R159, R160). -/
@[simp] theorem auxEncode_auxDecode (w : Word) : auxEncode (auxDecode w) = w :=
  word_eq fun i hi => by
    simp only [auxEncode, auxDecode, BitVec.getLsbD_append, BitVec.getLsbD_extractLsb']
    interval_cases i <;> simp

/-- The round-trip laws of the aux codec (40_codec.md R165). -/
theorem aux_roundTrips : RoundTrips auxDecode auxEncode := ⟨auxEncode_auxDecode, auxDecode_auxEncode⟩

/-- A word's two bytes stand on the wire most significant first, and are read back as the word. -/
@[simp] theorem takeWord_wordBytes (w : Word) (rest : List Byte) :
    takeWord (wordBytes w ++ rest) = .ok (w, rest) := by
  simp [wordBytes, takeWord]

/-- The four bytes of `cmd_arg` hold it. -/
theorem argBytes_append (k : Count) :
    k.extractLsb' 24 8 ++ k.extractLsb' 16 8 ++ k.extractLsb' 8 8 ++ k.extractLsb' 0 8 = k := by
  apply BitVec.eq_of_getLsbD_eq
  intro i hi
  simp only [BitVec.getLsbD_append, BitVec.getLsbD_extractLsb']
  interval_cases i <;> simp

end Sys2Proof
end

