-- ==== Sys2Proof/Laws/Memory.lean ====
section
/-! SUPPORT. The laws of the body buffer: read after write, and that a write keeps the canonical form. -/

namespace Sys2Proof.Machine

open Sys2Proof

@[simp] theorem Memory.read_nil (i : Nat) : Memory.read [] i = none := rfl

/-- The buffer after reset is in canonical form. -/
theorem Memory.nil_wf : Memory.wf [] = true := rfl

/-- A read at the index just written gives the word written. -/
theorem Memory.read_write_same (m : Memory) (i : Nat) (w : Word) : (m.write i w).read i = some w := by
  induction m with
  | nil => simp [Memory.write, Memory.read]
  | cons e m ih =>
    obtain ⟨j, v⟩ := e
    rcases Nat.lt_trichotomy i j with h | h | h
    · simp [Memory.write, h, Memory.read]
    · simp [Memory.write, h, Memory.read]
    · have h1 : ¬i < j := by omega
      have h2 : ¬i = j := by omega
      simp [Memory.write, h1, h2, Memory.read, ih]

/-- A write leaves every other index alone. -/
theorem Memory.read_write_other (m : Memory) (i k : Nat) (w : Word) (h : k ≠ i) :
    (m.write i w).read k = m.read k := by
  induction m with
  | nil => simp [Memory.write, Memory.read, h]
  | cons e m ih =>
    obtain ⟨j, v⟩ := e
    rcases Nat.lt_trichotomy i j with hij | hij | hij
    · simp [Memory.write, hij, Memory.read, h]
    · subst hij
      simp [Memory.write, Memory.read, h]
    · have h1 : ¬i < j := by omega
      have h2 : ¬i = j := by omega
      simp [Memory.write, h1, h2, Memory.read, ih]

/-- A write at or above a bound keeps the indices rising from it. -/
theorem Memory.risesFrom_write (m : Memory) (lo i : Nat) (w : Word) (hi : lo ≤ i)
    (h : m.risesFrom lo = true) : (m.write i w).risesFrom lo = true := by
  induction m generalizing lo with
  | nil => simp [Memory.write, Memory.risesFrom, hi]
  | cons e m ih =>
    obtain ⟨j, v⟩ := e
    simp only [Memory.risesFrom, Bool.and_eq_true, decide_eq_true_eq] at h
    rcases Nat.lt_trichotomy i j with hij | hij | hij
    · simp [Memory.write, hij, Memory.risesFrom, hi, h.2, Nat.succ_le_of_lt hij]
    · subst hij
      simp [Memory.write, Memory.risesFrom, hi, h.2]
    · have h1 : ¬i < j := by omega
      have h2 : ¬i = j := by omega
      simp [Memory.write, h1, h2, Memory.risesFrom, h.1, ih (j + 1) (by omega) h.2]

/-- Every index of the buffer after a write is one it had, or the one written. -/
theorem Memory.mem_write (m : Memory) (i : Nat) (w : Word) (e : Nat × Word) (h : e ∈ m.write i w) :
    e ∈ m ∨ e.1 = i := by
  induction m with
  | nil =>
    simp only [Memory.write, List.mem_singleton] at h
    exact .inr (by rw [h])
  | cons a m ih =>
    obtain ⟨j, v⟩ := a
    unfold Memory.write at h
    split at h
    · rcases List.mem_cons.1 h with h | h
      · exact .inr (by rw [h])
      · exact .inl h
    · split at h
      · rcases List.mem_cons.1 h with h | h
        · exact .inr (by rw [h])
        · exact .inl (List.mem_cons_of_mem _ h)
      · rcases List.mem_cons.1 h with h | h
        · exact .inl (by rw [h]; exact List.mem_cons_self)
        · exact (ih h).imp_left (List.mem_cons_of_mem _)

/-- A write within the 255 entries keeps the canonical form. -/
theorem Memory.write_wf (m : Memory) (i : Nat) (w : Word) (hi : i < Config.bodyCap) (h : m.wf = true) :
    (m.write i w).wf = true := by
  simp only [Memory.wf, Bool.and_eq_true, List.all_eq_true, decide_eq_true_eq] at h ⊢
  refine ⟨Memory.risesFrom_write m 0 i w (Nat.zero_le i) h.1, fun e he => ?_⟩
  rcases Memory.mem_write m i w e he with he | he
  · exact h.2 e he
  · rw [he]; exact hi

end Sys2Proof.Machine
end

