-- ==== Sys2Proof/Laws/State.lean ====
section
/-! SUPPORT. One lemma for each field under each shared update of the state, true by definition, so that no
later proof unfolds a record update. -/

namespace Sys2Proof.Machine

open Sys2Proof

/-! ### `Decoder.raise` -/

@[simp] theorem Decoder.raise_st (e : ErrorKind) (info : ErrInfo) (d : Decoder) : (d.raise e info).st = .idle := rfl
@[simp] theorem Decoder.raise_sr (e : ErrorKind) (info : ErrInfo) (d : Decoder) : (d.raise e info).sr = d.sr := rfl
@[simp] theorem Decoder.raise_seekCnt (e : ErrorKind) (info : ErrInfo) (d : Decoder) : (d.raise e info).seekCnt = d.seekCnt := rfl
@[simp] theorem Decoder.raise_pos (e : ErrorKind) (info : ErrInfo) (d : Decoder) : (d.raise e info).pos = d.pos := rfl
@[simp] theorem Decoder.raise_hdr (e : ErrorKind) (info : ErrInfo) (d : Decoder) : (d.raise e info).hdr = d.hdr := rfl
@[simp] theorem Decoder.raise_hdrOff (e : ErrorKind) (info : ErrInfo) (d : Decoder) : (d.raise e info).hdrOff = d.hdrOff := rfl
@[simp] theorem Decoder.raise_bcnt (e : ErrorKind) (info : ErrInfo) (d : Decoder) : (d.raise e info).bcnt = d.bcnt := rfl
@[simp] theorem Decoder.raise_hibyte (e : ErrorKind) (info : ErrInfo) (d : Decoder) : (d.raise e info).hibyte = d.hibyte := rfl
@[simp] theorem Decoder.raise_bodyBuf (e : ErrorKind) (info : ErrInfo) (d : Decoder) : (d.raise e info).bodyBuf = d.bodyBuf := rfl
@[simp] theorem Decoder.raise_budgetEn (e : ErrorKind) (info : ErrInfo) (d : Decoder) : (d.raise e info).budgetEn = d.budgetEn := rfl
@[simp] theorem Decoder.raise_maxBytes (e : ErrorKind) (info : ErrInfo) (d : Decoder) : (d.raise e info).maxBytes = d.maxBytes := rfl
@[simp] theorem Decoder.raise_pktValid (e : ErrorKind) (info : ErrInfo) (d : Decoder) : (d.raise e info).pktValid = d.pktValid := rfl
@[simp] theorem Decoder.raise_pkt (e : ErrorKind) (info : ErrInfo) (d : Decoder) : (d.raise e info).pkt = d.pkt := rfl
@[simp] theorem Decoder.raise_errValid (e : ErrorKind) (info : ErrInfo) (d : Decoder) : (d.raise e info).errValid = true := rfl
@[simp] theorem Decoder.raise_errCode (e : ErrorKind) (info : ErrInfo) (d : Decoder) : (d.raise e info).errCode = e.code := rfl
@[simp] theorem Decoder.raise_errInfo (e : ErrorKind) (info : ErrInfo) (d : Decoder) : (d.raise e info).errInfo = info := rfl

/-! ### `Decoder.emit` -/

@[simp] theorem Decoder.emit_st (P : Packet) (d : Decoder) : (d.emit P).st = .idle := rfl
@[simp] theorem Decoder.emit_sr (P : Packet) (d : Decoder) : (d.emit P).sr = d.sr := rfl
@[simp] theorem Decoder.emit_seekCnt (P : Packet) (d : Decoder) : (d.emit P).seekCnt = d.seekCnt := rfl
@[simp] theorem Decoder.emit_pos (P : Packet) (d : Decoder) : (d.emit P).pos = d.pos := rfl
@[simp] theorem Decoder.emit_hdr (P : Packet) (d : Decoder) : (d.emit P).hdr = d.hdr := rfl
@[simp] theorem Decoder.emit_hdrOff (P : Packet) (d : Decoder) : (d.emit P).hdrOff = d.hdrOff := rfl
@[simp] theorem Decoder.emit_bcnt (P : Packet) (d : Decoder) : (d.emit P).bcnt = d.bcnt := rfl
@[simp] theorem Decoder.emit_hibyte (P : Packet) (d : Decoder) : (d.emit P).hibyte = d.hibyte := rfl
@[simp] theorem Decoder.emit_bodyBuf (P : Packet) (d : Decoder) : (d.emit P).bodyBuf = d.bodyBuf := rfl
@[simp] theorem Decoder.emit_budgetEn (P : Packet) (d : Decoder) : (d.emit P).budgetEn = d.budgetEn := rfl
@[simp] theorem Decoder.emit_maxBytes (P : Packet) (d : Decoder) : (d.emit P).maxBytes = d.maxBytes := rfl
@[simp] theorem Decoder.emit_pktValid (P : Packet) (d : Decoder) : (d.emit P).pktValid = true := rfl
@[simp] theorem Decoder.emit_pkt (P : Packet) (d : Decoder) : (d.emit P).pkt = P := rfl
@[simp] theorem Decoder.emit_errValid (P : Packet) (d : Decoder) : (d.emit P).errValid = d.errValid := rfl
@[simp] theorem Decoder.emit_errCode (P : Packet) (d : Decoder) : (d.emit P).errCode = d.errCode := rfl
@[simp] theorem Decoder.emit_errInfo (P : Packet) (d : Decoder) : (d.emit P).errInfo = d.errInfo := rfl

/-! ### `Decoder.startSeek` -/

@[simp] theorem Decoder.startSeek_st (d : Decoder) : (d.startSeek).st = .seek := rfl
@[simp] theorem Decoder.startSeek_sr (d : Decoder) : (d.startSeek).sr = 0 := rfl
@[simp] theorem Decoder.startSeek_seekCnt (d : Decoder) : (d.startSeek).seekCnt = 0 := rfl
@[simp] theorem Decoder.startSeek_pos (d : Decoder) : (d.startSeek).pos = d.pos := rfl
@[simp] theorem Decoder.startSeek_hdr (d : Decoder) : (d.startSeek).hdr = d.hdr := rfl
@[simp] theorem Decoder.startSeek_hdrOff (d : Decoder) : (d.startSeek).hdrOff = d.hdrOff := rfl
@[simp] theorem Decoder.startSeek_bcnt (d : Decoder) : (d.startSeek).bcnt = 0 := rfl
@[simp] theorem Decoder.startSeek_hibyte (d : Decoder) : (d.startSeek).hibyte = d.hibyte := rfl
@[simp] theorem Decoder.startSeek_bodyBuf (d : Decoder) : (d.startSeek).bodyBuf = d.bodyBuf := rfl
@[simp] theorem Decoder.startSeek_budgetEn (d : Decoder) : (d.startSeek).budgetEn = d.budgetEn := rfl
@[simp] theorem Decoder.startSeek_maxBytes (d : Decoder) : (d.startSeek).maxBytes = d.maxBytes := rfl
@[simp] theorem Decoder.startSeek_pktValid (d : Decoder) : (d.startSeek).pktValid = false := rfl
@[simp] theorem Decoder.startSeek_pkt (d : Decoder) : (d.startSeek).pkt = d.pkt := rfl
@[simp] theorem Decoder.startSeek_errValid (d : Decoder) : (d.startSeek).errValid = false := rfl
@[simp] theorem Decoder.startSeek_errCode (d : Decoder) : (d.startSeek).errCode = 0 := rfl
@[simp] theorem Decoder.startSeek_errInfo (d : Decoder) : (d.startSeek).errInfo = ⟨0, 0⟩ := rfl

/-! ### `Decoder.deliver` -/

@[simp] theorem Decoder.deliver_packet (P : Packet) (d : Decoder) : d.deliver (.packet P) = d.emit P := rfl
@[simp] theorem Decoder.deliver_error (e : ErrorKind) (info : ErrInfo) (d : Decoder) :
    d.deliver (.error e info) = d.raise e info := rfl
@[simp] theorem Decoder.deliver_st (v : Verdict) (d : Decoder) : (d.deliver v).st = .idle := by
  cases v <;> rfl
@[simp] theorem Decoder.deliver_sr (v : Verdict) (d : Decoder) : (d.deliver v).sr = d.sr := by
  cases v <;> rfl
@[simp] theorem Decoder.deliver_seekCnt (v : Verdict) (d : Decoder) : (d.deliver v).seekCnt = d.seekCnt := by
  cases v <;> rfl
@[simp] theorem Decoder.deliver_pos (v : Verdict) (d : Decoder) : (d.deliver v).pos = d.pos := by
  cases v <;> rfl
@[simp] theorem Decoder.deliver_hdr (v : Verdict) (d : Decoder) : (d.deliver v).hdr = d.hdr := by
  cases v <;> rfl
@[simp] theorem Decoder.deliver_hdrOff (v : Verdict) (d : Decoder) : (d.deliver v).hdrOff = d.hdrOff := by
  cases v <;> rfl
@[simp] theorem Decoder.deliver_bcnt (v : Verdict) (d : Decoder) : (d.deliver v).bcnt = d.bcnt := by
  cases v <;> rfl
@[simp] theorem Decoder.deliver_hibyte (v : Verdict) (d : Decoder) : (d.deliver v).hibyte = d.hibyte := by
  cases v <;> rfl
@[simp] theorem Decoder.deliver_bodyBuf (v : Verdict) (d : Decoder) : (d.deliver v).bodyBuf = d.bodyBuf := by
  cases v <;> rfl
@[simp] theorem Decoder.deliver_budgetEn (v : Verdict) (d : Decoder) : (d.deliver v).budgetEn = d.budgetEn := by
  cases v <;> rfl
@[simp] theorem Decoder.deliver_maxBytes (v : Verdict) (d : Decoder) : (d.deliver v).maxBytes = d.maxBytes := by
  cases v <;> rfl

/-! ### `State.mapDec` -/

@[simp] theorem State.mapDec_dec (f : Decoder → Decoder) (s : State) : (s.mapDec f).dec = f s.dec := rfl
@[simp] theorem State.mapDec_params (f : Decoder → Decoder) (s : State) : (s.mapDec f).params = s.params := rfl
@[simp] theorem State.mapDec_source (f : Decoder → Decoder) (s : State) : (s.mapDec f).source = s.source := rfl
@[simp] theorem State.mapDec_turns (f : Decoder → Decoder) (s : State) : (s.mapDec f).turns = s.turns := rfl
@[simp] theorem State.mapDec_withdrawn (f : Decoder → Decoder) (s : State) : (s.mapDec f).withdrawn = s.withdrawn := rfl
@[simp] theorem State.mapDec_hostFault (f : Decoder → Decoder) (s : State) : (s.mapDec f).hostFault = s.hostFault := rfl
@[simp] theorem State.mapDec_qOut (f : Decoder → Decoder) (s : State) : (s.mapDec f).qOut = s.qOut := rfl

/-! ### `State.ignoreCommand` -/

@[simp] theorem State.ignoreCommand_dec (s : State) : (s.ignoreCommand).dec = s.dec := rfl
@[simp] theorem State.ignoreCommand_params (s : State) : (s.ignoreCommand).params = s.params := rfl
@[simp] theorem State.ignoreCommand_source (s : State) : (s.ignoreCommand).source = s.source := rfl
@[simp] theorem State.ignoreCommand_turns (s : State) : (s.ignoreCommand).turns = s.turns := rfl
@[simp] theorem State.ignoreCommand_withdrawn (s : State) : (s.ignoreCommand).withdrawn = s.withdrawn := rfl
@[simp] theorem State.ignoreCommand_hostFault (s : State) : (s.ignoreCommand).hostFault = true := rfl
@[simp] theorem State.ignoreCommand_qOut (s : State) : (s.ignoreCommand).qOut = s.qOut := rfl

/-! ### `State.answerQuery` -/

@[simp] theorem State.answerQuery_dec (o : QueryOut) (s : State) : (s.answerQuery o).dec = s.dec := rfl
@[simp] theorem State.answerQuery_params (o : QueryOut) (s : State) : (s.answerQuery o).params = s.params := rfl
@[simp] theorem State.answerQuery_source (o : QueryOut) (s : State) : (s.answerQuery o).source = s.source := rfl
@[simp] theorem State.answerQuery_turns (o : QueryOut) (s : State) : (s.answerQuery o).turns = s.turns := rfl
@[simp] theorem State.answerQuery_withdrawn (o : QueryOut) (s : State) : (s.answerQuery o).withdrawn = s.withdrawn := rfl
@[simp] theorem State.answerQuery_hostFault (o : QueryOut) (s : State) : (s.answerQuery o).hostFault = s.hostFault := rfl
@[simp] theorem State.answerQuery_qOut (o : QueryOut) (s : State) : (s.answerQuery o).qOut = o := rfl

/-! ### `State.resetDecoder` -/

@[simp] theorem State.resetDecoder_dec (s : State) : (s.resetDecoder).dec = Decoder.reset := rfl
@[simp] theorem State.resetDecoder_params (s : State) : (s.resetDecoder).params = s.params := rfl
@[simp] theorem State.resetDecoder_source (s : State) : (s.resetDecoder).source = s.source := rfl
@[simp] theorem State.resetDecoder_turns (s : State) : (s.resetDecoder).turns = s.turns := rfl
@[simp] theorem State.resetDecoder_withdrawn (s : State) : (s.resetDecoder).withdrawn = if s.dec.requestOutstanding then s.withdrawn + 1 else s.withdrawn := rfl
@[simp] theorem State.resetDecoder_hostFault (s : State) : (s.resetDecoder).hostFault = s.hostFault := rfl
@[simp] theorem State.resetDecoder_qOut (s : State) : (s.resetDecoder).qOut = s.qOut := rfl

/-! ### `State.discardAnswer` -/

@[simp] theorem State.discardAnswer_dec (s : State) : s.discardAnswer.dec = s.dec := by
  unfold State.discardAnswer
  split <;> rfl
@[simp] theorem State.discardAnswer_params (s : State) : s.discardAnswer.params = s.params := by
  unfold State.discardAnswer
  split <;> rfl

/-! ### `State.reservedCommand` -/

@[simp] theorem State.reservedCommand_dec (s : State) : s.reservedCommand.dec = s.dec := by
  unfold State.reservedCommand
  split <;> rfl
@[simp] theorem State.reservedCommand_params (s : State) : s.reservedCommand.params = s.params := by
  unfold State.reservedCommand
  split <;> rfl

end Sys2Proof.Machine
end

