-- ==== Sys2Proof/Laws/Ops.lean ====
section
/-! SUPPORT. For each shared operation, once, everything it can do: the lemmas that later proofs cite instead
of unfolding it. -/

namespace Sys2Proof.Machine

open Sys2Proof

/-- What a read can come to (00_scope.md R16). -/
theorem State.readByte_cases (s : State) :
    (s.source = [] ∧ s.readByte = .silent) ∨
    (∃ rest, s.source = .eos :: rest ∧ s.readByte = .eos { s with source := rest }) ∨
    (∃ b rest, s.source = .byte b :: rest ∧
      s.readByte = .byte b { s with source := rest, dec := { s.dec with pos := s.dec.pos + 1 } }) := by
  unfold State.readByte
  split
  · exact .inl ⟨‹_›, rfl⟩
  · exact .inr (.inl ⟨_, ‹_›, rfl⟩)
  · exact .inr (.inr ⟨_, _, ‹_›, rfl⟩)

/-- What a command that needs the block idle can do (44_interface.md R276). -/
theorem State.whenIdle_next {s t : State} {f : Decoder → Decoder} (h : s.whenIdle f = .next t) :
    (s.dec.st = .idle ∧ t = s.mapDec f) ∨
    ((s.dec.st = .seek ∨ s.dec.st = .body) ∧ t = s.ignoreCommand) := by
  unfold State.whenIdle at h
  split at h
  · cases h; exact .inl ⟨‹_›, rfl⟩
  · cases h; exact .inr ⟨.inl ‹_›, rfl⟩
  · cases h; exact .inr ⟨.inr ‹_›, rfl⟩
  · cases h

/-- What a scan step comes to (42_scanner.md R202): the budget is spent; the source is silent; the stream ends;
or a byte is taken into the window. -/
theorem State.scanStep_cases (s : State) :
    (s.dec.budgetSpent = true ∧
      s.scanStep = { s with dec := s.dec.raise .syncTimeout ⟨s.dec.pos, s.dec.seekCnt⟩ }) ∨
    (s.dec.budgetSpent = false ∧ s.source = [] ∧ s.scanStep = s) ∨
    (s.dec.budgetSpent = false ∧ ∃ rest, s.source = .eos :: rest ∧
      s.scanStep =
        { s with source := rest, dec := s.dec.raise .streamEnded ⟨s.dec.pos, s.dec.seekCnt⟩ }) ∨
    (s.dec.budgetSpent = false ∧ ∃ b rest, s.source = .byte b :: rest ∧
      s.scanStep =
        { s with
          source := rest
          dec := Decoder.scanned s.params s.dec.pos b { s.dec with pos := s.dec.pos + 1 } }) := by
  unfold State.scanStep
  by_cases hb : s.dec.budgetSpent = true
  · exact .inl ⟨hb, by rw [if_pos hb]; rfl⟩
  · have hb' : s.dec.budgetSpent = false := by simpa using hb
    rw [if_neg hb]
    rcases s.readByte_cases with ⟨h, hr⟩ | ⟨rest, h, hr⟩ | ⟨b, rest, h, hr⟩ <;> rw [hr]
    · exact .inr (.inl ⟨hb', h, rfl⟩)
    · exact .inr (.inr (.inl ⟨hb', rest, h, rfl⟩))
    · exact .inr (.inr (.inr ⟨hb', b, rest, h, rfl⟩))

/-- What a byte taken into the window does (42_scanner.md R202): no header; an empty packet; or a header whose
body follows. -/
theorem Decoder.scanned_cases (par : Params) (p : Pos) (b : Byte) (d : Decoder) :
    (hdrValid par.hdrMatch (scanWindow d.sr b) = false ∧
      d.scanned par p b = { d with seekCnt := satIncr d.seekCnt, sr := scanWindow d.sr b }) ∨
    (hdrValid par.hdrMatch (scanWindow d.sr b) = true ∧ wordCount (scanWindow d.sr b) = 0 ∧
      d.scanned par p b =
        { d with
          seekCnt := satIncr d.seekCnt
          sr := scanWindow d.sr b
          hdr := scanWindow d.sr b
          hdrOff := p - 1
          bcnt := 0
          pktValid := true
          pkt := packetOf (scanWindow d.sr b) (p - 1) [] []
          st := .idle }) ∨
    (hdrValid par.hdrMatch (scanWindow d.sr b) = true ∧ wordCount (scanWindow d.sr b) ≠ 0 ∧
      d.scanned par p b =
        { d with
          seekCnt := satIncr d.seekCnt
          sr := scanWindow d.sr b
          hdr := scanWindow d.sr b
          hdrOff := p - 1
          bcnt := 0
          st := .body }) := by
  unfold Decoder.scanned
  by_cases hv : hdrValid par.hdrMatch (scanWindow d.sr b) = true
  · by_cases hc : wordCount (scanWindow d.sr b) = 0
    · exact .inr (.inl ⟨hv, hc, by simp only [hv, if_true, hc]; rfl⟩)
    · exact .inr (.inr ⟨hv, hc, by simp only [hv, if_true, hc, if_false]⟩)
  · have hv' : hdrValid par.hdrMatch (scanWindow d.sr b) = false := by simpa using hv
    exact .inl ⟨hv', by simp only [hv', Bool.false_eq_true, if_false]⟩

/-- What a body byte taken does (43_assembler.md R231): a high byte waits; a low byte that is not the last
stores its word; the last byte ends the frame as classification decides. -/
theorem Decoder.bodyTaken_some {par : Params} {b : Byte} {d d' : Decoder} (h : d.bodyTaken par b = some d') :
    (d.lowByteNext = false ∧ d' = { d with bcnt := d.bcnt + 1, hibyte := b }) ∨
    (d.lowByteNext = true ∧ d.bcnt.toNat + 1 ≠ 2 * d.bodyWords ∧
      d' = { d with
             bcnt := d.bcnt + 1
             bodyBuf := d.bodyBuf.write d.bodyIndex (Word.ofBytes d.hibyte b) }) ∨
    (∃ ws, d.lowByteNext = true ∧ d.bcnt.toNat + 1 = 2 * d.bodyWords ∧
      d.bodyPrefix (d.bodyWords - 1) = some ws ∧
      d' = Decoder.deliver (classify par.lmMask d.hdr d.hdrOff (ws ++ [Word.ofBytes d.hibyte b]))
             { d with
               bcnt := d.bcnt + 1
               bodyBuf := d.bodyBuf.write d.bodyIndex (Word.ofBytes d.hibyte b) }) := by
  simp only [Decoder.bodyTaken] at h
  by_cases hl : d.lowByteNext = true
  · rw [if_pos hl] at h
    by_cases hk : d.bcnt.toNat + 1 = 2 * d.bodyWords
    · rw [if_pos hk] at h
      split at h
      · cases h; exact .inr (.inr ⟨_, hl, hk, ‹_›, rfl⟩)
      · cases h
    · rw [if_neg hk] at h
      cases h
      exact .inr (.inl ⟨hl, hk, rfl⟩)
  · rw [if_neg hl] at h
    cases h
    exact .inl ⟨by simpa using hl, rfl⟩

/-- What a body step comes to when it answers a next state (43_assembler.md R231): the source is silent; the
stream ends inside the body; or a byte is taken. -/
theorem State.bodyStep_next {s t : State} (h : s.bodyStep = .next t) :
    s.dec.bcnt.toNat < 2 * s.dec.bodyWords ∧
    ((s.source = [] ∧ t = s) ∨
     (∃ rest, s.source = .eos :: rest ∧
        t = { s with
              source := rest
              dec := s.dec.raise .truncatedStream ⟨s.dec.hdrOff, s.dec.bcnt.setWidth 32⟩ }) ∨
     (∃ b rest d, s.source = .byte b :: rest ∧
        Decoder.bodyTaken s.params b { s.dec with pos := s.dec.pos + 1 } = some d ∧
        t = { s with source := rest, dec := d })) := by
  unfold State.bodyStep at h
  split at h
  case isFalse => cases h
  case isTrue hlt =>
    refine ⟨hlt, ?_⟩
    rcases s.readByte_cases with ⟨hs, hr⟩ | ⟨rest, hs, hr⟩ | ⟨b, rest, hs, hr⟩ <;> rw [hr] at h
    · cases h; exact .inl ⟨hs, rfl⟩
    · cases h; exact .inr (.inl ⟨rest, hs, rfl⟩)
    · simp only at h
      split at h
      · cases h; exact .inr (.inr ⟨b, rest, _, hs, ‹_›, rfl⟩)
      · cases h

/-- A word class that answers a next state is the body step of its word (30_encoding.md R100). -/
theorem State.completeWord_next {s t : State} {c : WordClass} {w : Word} (h : s.completeWord c w = .next t) :
    s.pendingBodyWord = some w ∧ wordClass s.params.lmMask s.bodyPlace w = c ∧ execBodyByte s = .next t := by
  unfold State.completeWord at h
  split at h
  · exact ⟨‹_ ∧ _›.1, ‹_ ∧ _›.2, h⟩
  · cases h

/-- BODY_BYTE answers a next state only in BODY. -/
theorem execBodyByte_next {s t : State} (h : execBodyByte s = .next t) :
    s.dec.st = .body ∧ s.bodyStep = .next t := by
  unfold execBodyByte at h
  split at h
  · exact ⟨‹_›, h⟩
  · cases h
  · cases h
  · cases h

/-- SCAN_BYTE answers a next state only in SEEK. -/
theorem execScanByte_next {s t : State} (h : execScanByte s = .next t) :
    s.dec.st = .seek ∧ t = s.scanStep := by
  unfold execScanByte at h
  split at h
  · cases h; exact ⟨‹_›, rfl⟩
  · cases h
  · cases h
  · cases h

/-- A step is the fetched operation, run (70_reset_and_hazards.md R350). -/
theorem step_run {s s' : State} {i : Instr} (h : s.fetch = .run i s') : step s = exec i s' := by
  unfold step
  rw [h]

/-- With no operation due a step keeps the state that the fetch left. -/
theorem step_rest {s s' : State} (h : s.fetch = .rest s') : step s = .next s' := by
  unfold step
  rw [h]

/-! ### Counters and the body buffer as read -/

theorem satIncr_toNat (c : Count) : (satIncr c).toNat = min (c.toNat + 1) (2 ^ 32 - 1) := by
  unfold satIncr
  have h32 := c.isLt
  split
  · next h => subst h; rfl
  · next h =>
    have hne : c.toNat ≠ 2 ^ 32 - 1 := fun hx => h (BitVec.eq_of_toNat_eq (by rw [hx]; rfl))
    rw [BitVec.toNat_add, show BitVec.toNat (1 : Count) = 1 from rfl]
    omega

theorem Decoder.lowByteNext_iff (d : Decoder) : d.lowByteNext = true ↔ d.bcnt.toNat % 2 = 1 := by
  unfold Decoder.lowByteNext
  rw [← BitVec.testBit_toNat, Nat.testBit_zero]
  simp

theorem Decoder.bodyWords_le (d : Decoder) : d.bodyWords ≤ 255 := by
  unfold Decoder.bodyWords
  have := (wordCount d.hdr).isLt
  omega

/-- A prefix of the buffer that is read has the length asked for. -/
theorem Decoder.bodyPrefix_length {d : Decoder} {k : Nat} {ws : List Word} (h : d.bodyPrefix k = some ws) :
    ws.length = k := by
  induction k generalizing ws with
  | zero => cases h; rfl
  | succ k ih =>
    simp only [Decoder.bodyPrefix] at h
    split at h
    · cases h; simp [ih ‹_›]
    · cases h

/-- A prefix of the buffer is read when every entry of it has a value. -/
theorem Decoder.bodyPrefix_isSome {d : Decoder} {k : Nat} (h : ∀ i, i < k → (d.bodyWord i).isSome = true) :
    ∃ ws, d.bodyPrefix k = some ws := by
  induction k with
  | zero => exact ⟨[], rfl⟩
  | succ k ih =>
    obtain ⟨ws, hw⟩ := ih fun i hi => h i (by omega)
    obtain ⟨w, hw'⟩ := Option.isSome_iff_exists.1 (h k (by omega))
    exact ⟨ws ++ [w], by simp [Decoder.bodyPrefix, hw, hw']⟩

end Sys2Proof.Machine
end

