-- ==== Sys2Proof/Laws/PerInstr.lean ====
section
/-! SUPPORT. The family RoundTrip, one lemma for each constructor of Instr: the decoder reads back what the
encoder wrote, with every operand at every value, and leaves the bytes after it. -/

namespace Sys2Proof.Laws.RoundTrip

open Sys2Proof

/-- The decoder reads a well-formed operation back from its encoding, where it has one. -/
def Statement (i : Instr) : Prop :=
  ∀ (p : Params) (port : Port) (bs rest : List Byte), i.wf p = true → encode i = some (port, bs) →
    decode p port (bs ++ rest) = .ok (i, rest)

/-- A statement about an operation with a known encoding follows from one decoding. -/
theorem of_encode {i : Instr} {port : Port} {bs : List Byte} (he : encode i = some (port, bs))
    (h : ∀ (p : Params) (rest : List Byte), i.wf p = true → decode p port (bs ++ rest) = .ok (i, rest)) :
    Statement i := by
  intro p port' bs' rest hw he'
  rw [he] at he'
  cases he'
  exact h p rest hw

/-- A query with a word operand is read back where the operand's word gives it. -/
theorem query_word {i : Instr} {b : Byte} {w : Word} (he : encode i = some (.query, b :: wordBytes w))
    (h1 : b.extractLsb' 5 3 = 0) (h2 : queryHasOperand (b.extractLsb' 0 5) = true)
    (h3 : decodeQuery (b.extractLsb' 0 5) w w = i) : Statement i :=
  of_encode he fun p rest _ => by
    simp only [decode, List.cons_append, decodeQueryBytes, h1, ne_eq, not_true_eq_false, if_false, h2, if_true,
      takeWord_wordBytes, h3]

/-- A body word is read back at a place where its class stands. -/
theorem body_word {i : Instr} {pl : Place} {w : Word} (he : encode i = some (.body pl, wordBytes w))
    (h : ∀ p : Params, i.wf p = true → decodeBodyWord p pl w = i) : Statement i :=
  of_encode he fun p rest hw => by simp only [decode, takeWord_wordBytes, h p hw]

theorem header (w : Word) : Statement (.header w) := by
  refine of_encode rfl fun p rest hw => ?_
  have h : hdrValidate p.hdrMatch w = .ok := by simpa [Instr.wf, hdrValid] using hw
  simp only [decode, takeWord_wordBytes, decodeWindow, h]

theorem lm1Word0 (w : Word) : Statement (.lm1Word0 w) :=
  body_word rfl fun p hw => by
    have h : hasLmMarker p.lmMask w = true := hw
    simp [decodeBodyWord, wordClass, h]

theorem functionWord (w : Word) : Statement (.functionWord w) :=
  body_word rfl fun p hw => by
    have h : isFunctionWord0 p.lmMask w = true := hw
    simp only [isFunctionWord0, Bool.and_eq_true, Bool.not_eq_true'] at h
    simp [decodeBodyWord, wordClass, h.1, h.2]

theorem lambdaWord (w : Word) : Statement (.lambdaWord w) :=
  body_word rfl fun p _ => by simp [decodeBodyWord, wordClass]

theorem batteryWord (w : Word) : Statement (.batteryWord w) :=
  body_word rfl fun p hw => by
    have h : hasDivider w = true := hw
    simp [decodeBodyWord, wordClass, h]

theorem auxWord (w : Word) : Statement (.auxWord w) :=
  body_word rfl fun p _ => by simp [decodeBodyWord, wordClass]

theorem nop : Statement (.nop) := of_encode rfl fun _ _ _ => rfl

theorem decodeNext : Statement (.decodeNext) := of_encode rfl fun _ _ _ => rfl

theorem setBudget (k : Count) : Statement (.setBudget k) :=
  of_encode rfl fun p rest _ => by
    show Except.ok (Instr.setBudget _, rest) = _
    rw [argBytes_append]

theorem clearBudget : Statement (.clearBudget) := of_encode rfl fun _ _ _ => rfl

theorem reset : Statement (.reset) := of_encode rfl fun _ _ _ => rfl

theorem reservedCmd4 : Statement (.reservedCmd4) := of_encode rfl fun _ _ _ => rfl

theorem reservedCmd5 : Statement (.reservedCmd5) := of_encode rfl fun _ _ _ => rfl

theorem reservedCmd6 : Statement (.reservedCmd6) := of_encode rfl fun _ _ _ => rfl

theorem reservedCmd7 : Statement (.reservedCmd7) := of_encode rfl fun _ _ _ => rfl

theorem reservedCmd8 : Statement (.reservedCmd8) := of_encode rfl fun _ _ _ => rfl

theorem reservedCmd9 : Statement (.reservedCmd9) := of_encode rfl fun _ _ _ => rfl

theorem reservedCmdA : Statement (.reservedCmdA) := of_encode rfl fun _ _ _ => rfl

theorem reservedCmdB : Statement (.reservedCmdB) := of_encode rfl fun _ _ _ => rfl

theorem reservedCmdC : Statement (.reservedCmdC) := of_encode rfl fun _ _ _ => rfl

theorem reservedCmdD : Statement (.reservedCmdD) := of_encode rfl fun _ _ _ => rfl

theorem reservedCmdE : Statement (.reservedCmdE) := of_encode rfl fun _ _ _ => rfl

theorem hdrValidate (w : Word) : Statement (.hdrValidate w) := query_word rfl rfl rfl rfl

theorem hdrDecode (w : Word) : Statement (.hdrDecode w) := query_word rfl rfl rfl rfl

theorem hdrEncode (h : HeaderView) : Statement (.hdrEncode h) := query_word rfl rfl rfl (by show Instr.hdrEncode _ = _; rw [hdrDecode_hdrEncode])

theorem hdrSummary (w : Word) : Statement (.hdrSummary w) := query_word rfl rfl rfl rfl

theorem wordCount (w : Word) : Statement (.wordCount w) := query_word rfl rfl rfl rfl

theorem funcDecode (w : Word) : Statement (.funcDecode w) := query_word rfl rfl rfl rfl

theorem funcEncode (f : FunctionView) : Statement (.funcEncode f) := query_word rfl rfl rfl (by show Instr.funcEncode _ = _; rw [funcDecode_funcEncode])

theorem lambdaDecode (w : Word) : Statement (.lambdaDecode w) := query_word rfl rfl rfl rfl

theorem lambdaEncode (l : LambdaView) : Statement (.lambdaEncode l) := query_word rfl rfl rfl (by show Instr.lambdaEncode _ = _; rw [lambdaDecode_lambdaEncode])

theorem battDecode (w : Word) : Statement (.battDecode w) := query_word rfl rfl rfl rfl

theorem battEncode (b : BatteryView) : Statement (.battEncode b) := query_word rfl rfl rfl (by show Instr.battEncode _ = _; rw [battDecode_battEncode])

theorem auxDecode (w : Word) : Statement (.auxDecode w) := query_word rfl rfl rfl rfl

theorem auxEncode (a : AuxView) : Statement (.auxEncode a) := query_word rfl rfl rfl (by show Instr.auxEncode _ = _; rw [auxDecode_auxEncode])

theorem auxVolts (w : Word) : Statement (.auxVolts w) := query_word rfl rfl rfl rfl

theorem auxPercent (w : Word) : Statement (.auxPercent w) := query_word rfl rfl rfl rfl

theorem auxRpm (w : Word) : Statement (.auxRpm w) := query_word rfl rfl rfl rfl

theorem afValue (w : Word) : Statement (.afValue w) := query_word rfl rfl rfl rfl

theorem afUnits (w : Word) : Statement (.afUnits w) := query_word rfl rfl rfl rfl

theorem pktAfr : Statement (.pktAfr) := of_encode rfl fun _ _ _ => rfl

theorem pktWords : Statement (.pktWords) := of_encode rfl fun _ _ _ => rfl

theorem reservedQ14 : Statement (.reservedQ14) := of_encode rfl fun _ _ _ => rfl

theorem reservedQ15 : Statement (.reservedQ15) := of_encode rfl fun _ _ _ => rfl

theorem reservedQ16 : Statement (.reservedQ16) := of_encode rfl fun _ _ _ => rfl

theorem reservedQ17 : Statement (.reservedQ17) := of_encode rfl fun _ _ _ => rfl

theorem reservedQ18 : Statement (.reservedQ18) := of_encode rfl fun _ _ _ => rfl

theorem reservedQ19 : Statement (.reservedQ19) := of_encode rfl fun _ _ _ => rfl

theorem reservedQ1A : Statement (.reservedQ1A) := of_encode rfl fun _ _ _ => rfl

theorem reservedQ1B : Statement (.reservedQ1B) := of_encode rfl fun _ _ _ => rfl

theorem reservedQ1C : Statement (.reservedQ1C) := of_encode rfl fun _ _ _ => rfl

theorem reservedQ1D : Statement (.reservedQ1D) := of_encode rfl fun _ _ _ => rfl

theorem reservedQ1E : Statement (.reservedQ1E) := of_encode rfl fun _ _ _ => rfl

theorem reservedQ1F : Statement (.reservedQ1F) := of_encode rfl fun _ _ _ => rfl

theorem scanByte : Statement (.scanByte) := by
  intro p port bs rest _ he
  cases he

theorem bodyByte : Statement (.bodyByte) := by
  intro p port bs rest _ he
  cases he

theorem classify (hdr : Word) (off : Pos) (body : List Word) : Statement (.classify hdr off body) := by
  intro p port bs rest _ he
  cases he

end Sys2Proof.Laws.RoundTrip
end

