-- ==== Sys2Proof/Tests/Slice0.lean ====
section
/-! SUPPORT. The model's own tests: ill-formed operations that WellFormed refuses, words of the spec's encodings
and what they decode to, the vectors of 95_test_vectors.md, and for each statement that has hypotheses a state and
operands that meet them. -/

namespace Sys2Proof.Tests

open Sys2Proof Sys2Proof.Machine

/-! ### Helpers -/

/-- The next state of an outcome, if it is one. -/
def nextOf : Host.Outcome State Fault Refusal → Option State
  | .next s => some s
  | .fault _ => none
  | .refused _ => none

/-- The fault of an outcome, if it is one. -/
def faultOf : Host.Outcome State Fault Refusal → Option Fault
  | .next _ => none
  | .fault f => some f
  | .refused _ => none

/-- The decoder of the next state. -/
def decOf (o : Host.Outcome State Fault Refusal) : Option Decoder := (nextOf o).map State.dec

/-- What a query answers after an operation. -/
def outOf (o : Host.Outcome State Fault Refusal) : Option QueryOut := (nextOf o).map State.qOut

/-- The answer of a query asked right after reset. -/
def ask (i : Instr) : Option QueryOut := outOf (exec i State.reset)

/-- A result and no error. -/
def ans (r : QueryResult) : Option QueryOut := some ⟨r, .none⟩

/-- No result and an error. -/
def err (e : QueryError) : Option QueryOut := some ⟨.none, e⟩

/-- A seek that has consumed `k` bytes, the last of them in `sr`, with the answers `src` to come. -/
def seeking (sr : Word) (k : Count) (src : List Answer) : State :=
  { State.reset with
    source := src
    turns := [.decoder]
    dec := { Decoder.reset with st := .seek, sr := sr, seekCnt := k, pos := k } }

/-- A seek from the reset state under a budget. -/
def seekingUnder (k m : Count) (src : List Answer) : State :=
  { seeking 0 k src with dec := { (seeking 0 k src).dec with budgetEn := true, maxBytes := m } }

/-- A frame at offset 0 in BODY: its header, the words received whole, and the number of bytes received. -/
def inBody (hdr : Word) (words : List Word) (k : Nat) (hi : Byte) (src : List Answer) : State :=
  { State.reset with
    source := src
    turns := [.decoder]
    dec :=
      { Decoder.reset with
        st := .body
        hdr := hdr
        bcnt := BitVec.ofNat 9 k
        hibyte := hi
        pos := BitVec.ofNat 32 (2 + k)
        bodyBuf := (List.range words.length).zip words } }

/-- A state that holds a packet. -/
def holding (P : Packet) : State :=
  { State.reset with dec := { Decoder.reset with pktValid := true, pkt := P } }

/-- The packet of the frame `90 02 00 E4 07 68` at offset 3 (95_test_vectors.md P1). -/
def p1Packet : Packet :=
  { hdr := 0x9002, off := 3, n := 2, body := [0x00E4, 0x0768], kind := [.function, .lambda], chan := [0, 0] }

/-- The packet of a two-word frame whose words are given. -/
def twoWords (w0 w1 : Word) : Packet :=
  { hdr := 0x9002, off := 0, n := 2, body := [w0, w1], kind := [.function, .lambda], chan := [0, 0] }

/-! ### Ill-formed operations are refused -/

theorem test_wf_refuses_header : Instr.wf Params.spec (.header 0x8080#16) = false := by decide
theorem test_wf_refuses_lm1Word0 : Instr.wf Params.spec (.lm1Word0 0x0080#16) = false := by decide
theorem test_wf_refuses_functionWord_without_marker : Instr.wf Params.spec (.functionWord 0x0000#16) = false := by decide
theorem test_wf_refuses_functionWord_with_lm_marker : Instr.wf Params.spec (.functionWord 0x20E4#16) = false := by decide
theorem test_wf_refuses_batteryWord : Instr.wf Params.spec (.batteryWord 0x037F#16) = false := by decide
theorem test_wf_refuses_classify_header : Instr.wf Params.spec (.classify 0x8280#16 0 []) = false := by decide
theorem test_wf_refuses_classify_length :
    Instr.wf Params.spec (.classify 0x9002#16 0 [0x00E4#16]) = false := by decide
theorem test_wf_admits :
    Instr.wf Params.spec (.header 0x9002#16) = true ∧ Instr.wf Params.spec (.functionWord 0x00E4#16) = true ∧
    Instr.wf Params.spec (.classify 0x9002#16 0 [0x00E4#16, 0x0768#16]) = true := by decide

/-! ### Decoding: words written out from the encodings (30_encoding.md R91, R94 to R98, R110, R111) -/

/-- `1R0DLx0H0NNNNNNN`: bits 15, 12 and 1 set is a data header of two words. -/
theorem test_decode_header :
    decode Params.spec .window [0b10010000#8, 0b00000010#8] = .ok (.header 0b1001000000000010#16, []) := by decide

/-- The words of 95_test_vectors.md 2.1 that are no headers, by their first failing bit. -/
theorem test_decode_header_rejects :
    decode Params.spec .window [0x7F#8, 0xFF#8] = .error (.invalidHeader 15) ∧
    decode Params.spec .window [0xA2#8, 0x80#8] = .error (.invalidHeader 13) ∧
    decode Params.spec .window [0x82#8, 0x80#8] = .error (.invalidHeader 9) ∧
    decode Params.spec .window [0x80#8, 0x80#8] = .error (.invalidHeader 7) ∧
    decode Params.spec .window [0x80#8] = .error .tooShort := by decide

/-- `ss1sssssssssssss`, `ss0FFFsH1AAAAAAA`, `ssHHHHHHsLLLLLLL`, `ssDDDHHHsLLLLLLL`, `sssssHHHsLLLLLLL`. -/
theorem test_decode_body_words :
    decode Params.spec (.body ⟨0, false⟩) [0b00100000#8, 0b11100100#8] = .ok (.lm1Word0 0x20E4#16, []) ∧
    decode Params.spec (.body ⟨0, false⟩) [0b00010000#8, 0b11100100#8] = .ok (.functionWord 0x10E4#16, []) ∧
    decode Params.spec (.body ⟨1, true⟩) [0b00000111#8, 0b01101000#8] = .ok (.lambdaWord 0x0768#16, []) ∧
    decode Params.spec (.body ⟨2, true⟩) [0b00001010#8, 0b00000101#8] = .ok (.batteryWord 0x0A05#16, []) ∧
    decode Params.spec (.body ⟨3, true⟩) [0b00000111#8, 0b01111111#8] = .ok (.auxWord 0x077F#16, []) := by decide

/-- The same bits at other places (30_encoding.md R100): no marker at word 0 makes every word an AuxWord, and a
divider counts at word 2 only. -/
theorem test_decode_body_words_by_place :
    decodeBodyWord Params.spec ⟨0, false⟩ 0x037F#16 = .auxWord 0x037F#16 ∧
    decodeBodyWord Params.spec ⟨1, false⟩ 0x0080#16 = .auxWord 0x0080#16 ∧
    decodeBodyWord Params.spec ⟨2, false⟩ 0x0800#16 = .auxWord 0x0800#16 ∧
    decodeBodyWord Params.spec ⟨2, true⟩ 0x037F#16 = .auxWord 0x037F#16 ∧
    decodeBodyWord Params.spec ⟨3, true⟩ 0x0800#16 = .auxWord 0x0800#16 ∧
    decodeBodyWord ⟨.clear, 0x0000#16⟩ ⟨0, false⟩ 0x20E4#16 = .functionWord 0x20E4#16 := by decide

theorem test_decode_commands :
    ([0x0#4, 0x1#4, 0x2#4, 0x3#4, 0x4#4, 0x5#4, 0x6#4, 0x7#4, 0x8#4, 0x9#4, 0xA#4, 0xB#4, 0xC#4, 0xD#4, 0xE#4,
      0xF#4].map fun c => decodeCommand c 5) =
    [.nop, .decodeNext, .setBudget 5, .clearBudget, .reservedCmd4, .reservedCmd5, .reservedCmd6, .reservedCmd7,
      .reservedCmd8, .reservedCmd9, .reservedCmdA, .reservedCmdB, .reservedCmdC, .reservedCmdD, .reservedCmdE,
      .reset] := by decide

theorem test_decode_word_queries :
    ([0x00#5, 0x01#5, 0x03#5, 0x04#5, 0x05#5, 0x07#5, 0x09#5, 0x0B#5, 0x0D#5, 0x0E#5, 0x0F#5, 0x10#5,
      0x11#5].map fun c => decodeQuery c 0x1234#16 0) =
    [.hdrValidate 0x1234, .hdrDecode 0x1234, .hdrSummary 0x1234, .wordCount 0x1234, .funcDecode 0x1234,
      .lambdaDecode 0x1234, .battDecode 0x1234, .auxDecode 0x1234, .auxVolts 0x1234, .auxPercent 0x1234,
      .auxRpm 0x1234, .afValue 0x1234, .afUnits 0x1234] := by decide

/-- A view's fields packed in the order of its layout table (log 10). -/
theorem test_decode_encode_queries :
    decodeQuery 0x02#5 0 0b1101100100000010#16 = .hdrEncode ⟨1, 1, 0, 1, 1, 0, 0, 1, 0, 2⟩ ∧
    decodeQuery 0x06#5 0 0b0001000110010000#16 = .funcEncode ⟨0, 0, 0, 4, 0, 1, 1, 16⟩ ∧
    decodeQuery 0x08#5 0 0b0011111101111111#16 = .lambdaEncode ⟨0, 0, 63, 0, 127⟩ ∧
    decodeQuery 0x0A#5 0 0b0001101000000101#16 = .battEncode ⟨0, 0, 3, 2, 0, 5⟩ ∧
    decodeQuery 0x0C#5 0 0b1111100010000000#16 = .auxEncode ⟨31, 0, 1, 0⟩ := by decide

theorem test_decode_other_queries :
    ([0x12#5, 0x13#5, 0x14#5, 0x15#5, 0x16#5, 0x17#5, 0x18#5, 0x19#5, 0x1A#5, 0x1B#5, 0x1C#5, 0x1D#5, 0x1E#5,
      0x1F#5].map fun c => decodeQuery c 0 0) =
    [.pktAfr, .pktWords, .reservedQ14, .reservedQ15, .reservedQ16, .reservedQ17, .reservedQ18, .reservedQ19,
      .reservedQ1A, .reservedQ1B, .reservedQ1C, .reservedQ1D, .reservedQ1E, .reservedQ1F] := by decide

/-- The byte form of port transactions (log 11). -/
theorem test_decode_transactions :
    decode Params.spec .command [0x02#8, 0x00#8, 0x00#8, 0x01#8, 0x10#8, 0x55#8] =
      .ok (.setBudget 0x110, [0x55#8]) ∧
    decode Params.spec .query [0x0D#8, 0x03#8, 0x7F#8] = .ok (.auxVolts 0x037F#16, []) ∧
    decode Params.spec .command [0x10#8] = .error .strayBits ∧
    decode Params.spec .query [0x20#8, 0x00#8, 0x00#8] = .error .strayBits ∧
    decode Params.spec .command [0x02#8, 0x00#8] = .error .tooShort := by decide

/-- Rows of spec/opcode_table.json by their match words (log 12). -/
theorem test_decode_table_words :
    decodeTableWord 16 0x8000 = some (.header 0x8000#16) ∧ decodeTableWord 16 0x2000 = some (.lm1Word0 0x2000#16) ∧
    decodeTableWord 16 0x0080 = some (.functionWord 0x0080#16) ∧
    decodeTableWord 16 0x0800 = some (.batteryWord 0x0800#16) ∧
    decodeTableWord 16 0x0000 = some (.auxWord 0x0000#16) ∧ decodeTableWord 8 0x1 = some .decodeNext ∧
    decodeTableWord 8 0x12 = some .pktAfr ∧ decodeTableWord 8 0x1F = some .reservedQ1F := by decide

/-- A table word placed after reset is the next step's operation. -/
theorem test_step_runs_placed_word :
    (decOf (step (State.reset.withFetchWord 16 0x8000))).map (fun d => (d.st, d.pktValid, d.pkt.hdr)) =
      some (.idle, true, 0x8000#16) ∧
    (decOf (step (State.reset.withFetchWord 16 0x2000))).map (fun d => (d.st, d.bodyBuf.read 0)) =
      some (.body, some 0x2000#16) ∧
    (decOf (step (State.reset.withFetchWord 8 0x1))).map (fun d => d.st) = some .seek ∧
    outOf (step (State.reset.withFetchWord 8 0x13)) = err .noPacket := by decide

/-- Script lines in the syntax of 30_encoding.md R115, from 95_test_vectors.md P1 and P3. -/
theorem test_script_text :
    scriptItems ["STREAM 13 37", "WORDS 0x9002", "EOS", "SET_BUDGET 4       ; cmd 0x2, cmd_arg 4",
      "Q PKT_AFR          ; q_sel 0x12", "Q AUX_VOLTS 0x077F"] =
    some [.stream [0x13#8, 0x37#8], .words [0x9002#16], .eos, .command 0x2#4 4, .query 0x12#5 0 0,
      .query 0x0D#5 0x077F#16 0x077F#16] := by decide

/-- The error codes and payloads of 60_exceptions.md R301. -/
theorem test_error_codes :
    [ErrorKind.none, .invalidHeader, .streamEnded, .syncTimeout, .truncatedStream, .unsupportedVariant,
      .functionNotNormal, .noPacket, .illegalQuery].map ErrorKind.code = [0, 1, 2, 3, 4, 5, 6, 7, 8] ∧
    (QueryError.functionNotNormal (some .warmup)).detail = 4 ∧ (QueryError.functionNotNormal none).detail = 8 := by
  decide

/-- The packet output (10_state.md R52): PKT_VALID is readable with and without a packet, the fields with one. -/
theorem test_packetOut :
    State.reset.dec.packetOut = ⟨false, .error .packetUnreadable⟩ ∧
    (holding p1Packet).dec.packetOut = ⟨true, .ok p1Packet⟩ := ⟨rfl, rfl⟩

/-! ### Commands (95_test_vectors.md 2.6) -/

theorem test_nop : nextOf (exec .nop (seeking 0 1 [])) = some (seeking 0 1 []) := by decide

theorem test_decodeNext_clears_the_results :
    (decOf (exec .decodeNext (holding p1Packet))).map (fun d => (d.st, d.pktValid, d.sr, d.seekCnt)) =
      some (.seek, false, 0, 0) := by decide

theorem test_decodeNext_ignored_while_busy :
    decOf (exec .decodeNext (seeking 0x90 1 [])) = some (seeking 0x90 1 []).dec := by decide

theorem test_setBudget :
    (decOf (exec (.setBudget 4) State.reset)).map (fun d => (d.budgetEn, d.maxBytes)) = some (true, 4) := by decide

theorem test_setBudget_ignored_while_busy :
    (decOf (exec (.setBudget 5) (seeking 0 0 []))).map (fun d => d.budgetEn) = some false := by decide

/-- After `SET_BUDGET 4`, `CLEAR_BUDGET`: 95_test_vectors.md P3 leaves BUDGET_EN 0, MAX_BYTES 4. -/
theorem test_clearBudget :
    (decOf (exec .clearBudget { State.reset with dec := { Decoder.reset with budgetEn := true, maxBytes := 4 } })).map
      (fun d => (d.budgetEn, d.maxBytes)) = some (false, 4) := by decide

theorem test_reset_abandons_a_decode :
    (nextOf (exec .reset (seeking 0x90 1 []))).map (fun s => (s.dec, s.withdrawn)) = some (Decoder.reset, 1) := by
  decide

theorem test_reserved_command_has_no_effect : nextOf (exec .reservedCmd7 State.reset) = some State.reset := by decide

/-! ### Header queries (95_test_vectors.md 2.1) -/

theorem test_hdrValidate :
    ask (.hdrValidate 0xDD7F) = ans .ok ∧ ask (.hdrValidate 0x0000) = err (.invalidHeader 15) ∧
    ask (.hdrValidate 0xFFFF) = err (.invalidHeader 13) ∧ ask (.hdrValidate 0x8280) = err (.invalidHeader 9) ∧
    ask (.hdrValidate 0x8080) = err (.invalidHeader 7) := by decide

theorem test_hdrValidate_alternative_match :
    outOf (exec (.hdrValidate 0xA280) { State.reset with params := ⟨.set, 0x2000⟩ }) = ans .ok ∧
    outOf (exec (.hdrValidate 0x9002) { State.reset with params := ⟨.set, 0x2000⟩ }) = err (.invalidHeader 13) := by
  decide

theorem test_hdrDecode : ask (.hdrDecode 0xDD7F) = ans (.header ⟨1, 1, 0, 1, 1, 1, 0, 1, 0, 127⟩) := by decide
theorem test_hdrEncode : ask (.hdrEncode ⟨1, 0, 0, 1, 0, 0, 0, 0, 0, 2⟩) = ans (.word 0x9002) := by decide
theorem test_hdrSummary : ask (.hdrSummary 0xD902) = ans (.summary ⟨true, false, true, true, 130⟩) := by decide
theorem test_hdrSummary_invalid : ask (.hdrSummary 0xA280) = err (.invalidHeader 13) := by decide

theorem test_wordCount :
    ask (.wordCount 0xA280) = ans (.count 0) ∧ ask (.wordCount 0xA2FF) = ans (.count 127) ∧
    ask (.wordCount 0x8100) = ans (.count 128) ∧ ask (.wordCount 0x817F) = ans (.count 255) := by decide

/-! ### Body-word queries (95_test_vectors.md 2.2) -/

theorem test_funcDecode : ask (.funcDecode 0x0193) = ans (.function ⟨0, 0, 0, 0, 0, 1, 1, 19⟩ .normal 147) := by decide
theorem test_funcDecode_ones :
    ask (.funcDecode 0xFFFF) = ans (.function ⟨1, 1, 1, 7, 1, 1, 1, 127⟩ .reserved 255) := by decide
theorem test_funcEncode : ask (.funcEncode ⟨0, 0, 0, 4, 0, 1, 1, 16⟩) = ans (.word 0x1190) := by decide
theorem test_lambdaDecode : ask (.lambdaDecode 0x0768) = ans (.lambda ⟨0, 0, 7, 0, 104⟩ 1000) := by decide
theorem test_lambdaDecode_status : ask (.lambdaDecode 0xC080) = ans (.lambda ⟨1, 1, 0, 1, 0⟩ 0) := by decide
theorem test_lambdaEncode : ask (.lambdaEncode ⟨0, 0, 63, 0, 127⟩) = ans (.word 0x3F7F) := by decide
theorem test_battDecode : ask (.battDecode 0x1A05) = ans (.battery ⟨0, 0, 3, 2, 0, 5⟩ 261) := by decide
theorem test_battDecode_no_divider : ask (.battDecode 0x037F) = ans (.battery ⟨0, 0, 0, 3, 0, 127⟩ 511) := by decide
theorem test_battEncode : ask (.battEncode ⟨0, 0, 1, 0, 0, 0⟩) = ans (.word 0x0800) := by decide
theorem test_auxDecode : ask (.auxDecode 0x077F) = ans (.aux ⟨0, 7, 0, 127⟩ 1023) := by decide
theorem test_auxDecode_status : ask (.auxDecode 0xF880) = ans (.aux ⟨31, 0, 1, 0⟩ 0) := by decide
theorem test_auxEncode : ask (.auxEncode ⟨0, 4, 0, 0⟩) = ans (.word 0x0400) := by decide

/-! ### Derived values (95_test_vectors.md 2.3) -/

theorem test_auxVolts :
    ask (.auxVolts 0x0001) = ans (.real 0x3F74050140501405) ∧
    ask (.auxVolts 0x037F) = ans (.real 0x4003FAFEBFAFEBFB) ∧
    ask (.auxVolts 0x077F) = ans (.real 0x4014000000000000) := by decide +kernel

theorem test_auxVolts_zero : ask (.auxVolts 0xF880) = ans (.real 0x0000000000000000) := by decide

theorem test_auxPercent :
    ask (.auxPercent 0x0001) = ans (.real 0x3F50040100401004) ∧
    ask (.auxPercent 0x037F) = ans (.real 0x3FDFF7FDFF7FDFF8) ∧
    ask (.auxPercent 0x077F) = ans (.real 0x3FF0000000000000) := by decide +kernel

theorem test_auxRpm : ask (.auxRpm 0x077F) = ans (.int 10230) ∧ ask (.auxRpm 0x037F) = ans (.int 5110) := by decide

theorem test_afValue_tenths :
    ask (.afValue 0x0593) = ans (.real 0x402D666666666667) ∧ ask (.afValue 0x11FF) = ans (.real 0x4039800000000000) ∧
    ask (.afValue 0x0480) = ans (.real 0x0000000000000000) := by decide +kernel

theorem test_afValue_others :
    ask (.afValue 0x00E4) = ans (.int 100) ∧ ask (.afValue 0x08E4) = ans .none ∧ ask (.afValue 0x0CE4) = ans .none ∧
    ask (.afValue 0x14E4) = ans (.int 100) ∧ ask (.afValue 0x18E4) = ans (.int 100) ∧
    ask (.afValue 0x1CE4) = ans .none := by decide

theorem test_afUnits :
    ([0x00E4, 0x04E4, 0x08E4, 0x0CE4, 0x10E4, 0x14E4, 0x18E4, 0x1CE4].map fun w => ask (.afUnits w)) =
    [ans (.units .ratio), ans (.units .percent), ans .none, ans .none, ans (.units .percent), ans (.units .count),
      ans .none, ans .none] := by decide

theorem test_pktAfr :
    outOf (exec .pktAfr (holding p1Packet)) = ans (.real 0x402E000000000000) ∧
    outOf (exec .pktAfr (holding (twoWords 0x0193 0x0768))) = ans (.real 0x40360CCCCCCCCCCD) ∧
    outOf (exec .pktAfr (holding (twoWords 0x01FF 0x3F7F))) = ans (.real 0x406BB3DB22D0E560) := by decide +kernel

theorem test_pktAfr_fails :
    outOf (exec .pktAfr (holding (twoWords 0x10E4 0x0768))) = err (.functionNotNormal (some .warmup)) ∧
    outOf (exec .pktAfr (holding { twoWords 0 0 with n := 1, body := [0x037F], kind := [.aux], chan := [1] })) =
      err (.functionNotNormal none) ∧
    ask .pktAfr = err .noPacket := by decide

theorem test_pktWords :
    outOf (exec .pktWords (holding p1Packet)) = ans (.words [0x9002, 0x00E4, 0x0768]) ∧
    ask .pktWords = err .noPacket := by decide

theorem test_reserved_query_is_illegal : ask .reservedQ15 = err .illegalQuery := by decide

/-! ### The scanner (95_test_vectors.md 2.4, P1) -/

/-- The window `0xFF90` is rejected, and only SR, SEEKCNT and POS move. -/
theorem test_scanByte_swallows :
    decOf (exec .scanByte (seeking 0x37FF 3 [.byte 0x90])) =
      some { (seeking 0 4 []).dec with sr := 0xFF90 } := by decide

/-- P1: the window `0x9002` is valid with n = 2 at offset 3. -/
theorem test_scanByte_finds :
    (decOf (exec .scanByte (seeking 0xFF90 4 [.byte 0x02]))).map (fun d => (d.st, d.hdr, d.hdrOff, d.pos, d.bcnt)) =
      some (.body, 0x9002, 3, 5, 0) := by decide

/-- `90 00`: the empty packet at offset 0. -/
theorem test_header_empty_packet :
    (decOf (exec (.header 0x9000) (seeking 0x0090 1 [.byte 0x00]))).map (fun d => (d.st, d.pktValid, d.pkt.off, d.pos)) =
      some (.idle, true, 0, 2) := by decide

theorem test_header_out_of_context :
    faultOf (exec (.header 0x9002) (seeking 0x0090 1 [.byte 0x00])) = some .wordNotInContext := by decide

/-! ### The assembler (95_test_vectors.md 2.5) -/

/-- `90 02 00 E4`, then `07`, then EOS: TruncatedStream, off 0, detail 3. -/
theorem test_bodyByte_truncated :
    (decOf (exec .bodyByte (inBody 0x9002 [0x00E4] 3 0x07 [.eos]))).map (fun d => (d.st, d.errCode, d.errInfo)) =
      some (.idle, 4, ⟨0, 3⟩) := by decide

/-- P1's last byte: FUNCTION, LAMBDA. -/
theorem test_bodyByte_last :
    (decOf (exec .bodyByte (inBody 0x9002 [0x00E4] 3 0x07 [.byte 0x68]))).map (fun d => (d.st, d.pktValid, d.pkt)) =
      some (.idle, true, { p1Packet with off := 0 }) := by decide

theorem test_lm1Word0_fails_the_frame :
    (decOf (exec (.lm1Word0 0x20E4) (inBody 0x9001 [] 1 0x20 [.byte 0xE4]))).map (fun d => (d.errCode, d.errInfo.detail)) =
      some (5, 0x20E4) := by decide

/-- The function marker with no word 1: TruncatedStream, detail 2. -/
theorem test_functionWord_alone :
    (decOf (exec (.functionWord 0x0080) (inBody 0x9001 [] 1 0x00 [.byte 0x80]))).map (fun d => (d.errCode, d.errInfo)) =
      some (4, ⟨0, 2⟩) := by decide

theorem test_functionWord_stored :
    (decOf (exec (.functionWord 0x00E4) (inBody 0x9002 [] 1 0x00 [.byte 0xE4]))).map
      (fun d => (d.st, d.bcnt, d.bodyBuf.read 0)) = some (.body, 2, some 0x00E4) := by decide

theorem test_lambdaWord_last :
    (decOf (exec (.lambdaWord 0x0768) (inBody 0x9002 [0x00A0] 3 0x07 [.byte 0x68]))).map (fun d => d.pkt.kind) =
      some [.function, .lambda] := by decide

theorem test_batteryWord :
    (decOf (exec (.batteryWord 0x0800) (inBody 0x9003 [0x0080, 0x0768] 5 0x08 [.byte 0x00]))).map
      (fun d => (d.pkt.kind, d.pkt.chan)) = some ([.function, .lambda, .battery], [0, 0, 0]) := by decide

theorem test_auxWord_third :
    (decOf (exec (.auxWord 0x037F) (inBody 0x9003 [0x0080, 0x0768] 5 0x03 [.byte 0x7F]))).map
      (fun d => (d.pkt.kind, d.pkt.chan)) = some ([.function, .lambda, .aux], [0, 0, 1]) := by decide

theorem test_auxWord_everywhere :
    (decOf (exec (.auxWord 0x0800) (inBody 0x9003 [0x037F, 0x0080] 5 0x08 [.byte 0x00]))).map
      (fun d => (d.pkt.kind, d.pkt.chan)) = some ([.aux, .aux, .aux], [1, 2, 3]) := by decide

theorem test_word_classes_out_of_context :
    faultOf (exec (.auxWord 0x0800) (inBody 0x9003 [0x0080, 0x0768] 5 0x08 [.byte 0x00])) = some .wordNotInContext ∧
    faultOf (exec .bodyByte State.reset) = some .stepNotDue := by decide

theorem test_classify :
    (decOf (exec (.classify 0x9004 7 [0x0080, 0x0768, 0x0800, 0x037F]) (inBody 0x9004 [] 7 0 []))).map
      (fun d => (d.st, d.pkt.off, d.pkt.kind, d.pkt.chan)) =
    some (.idle, 7, [.function, .lambda, .battery, .aux], [0, 0, 0, 1]) := by decide

theorem test_classify_lm1_first :
    (decOf (exec (.classify 0x9002 0 [0x2000, 0x0001]) (inBody 0x9002 [] 3 0 []))).map
      (fun d => (d.errCode, d.errInfo.detail, d.pktValid)) = some (5, 0x2000, false) := by decide

/-! ### Witnesses: for each statement with hypotheses, a state and operands that meet them -/

theorem p1Packet_ok : PacketOk Params.spec p1Packet :=
  ⟨by decide, by decide, by decide, by decide, ⟨[.function, .lambda], by simp, 0, rfl⟩, by decide⟩

/-- A packet of one AuxWord. -/
def auxPacket : Packet :=
  { hdr := 0x9001, off := 5, n := 1, body := [0x037F], kind := [.aux], chan := [1] }

/-- The empty packet (95_test_vectors.md 2.4). -/
def emptyPacket : Packet := { hdr := 0x9000, off := 0, n := 0, body := [], kind := [], chan := [] }

theorem seeking_inv (k : Count) (src : List Answer) : (seeking 0 k src).Inv :=
  ⟨by simp [seeking], by simp [seeking, Decoder.reset], by simp [seeking, Decoder.reset],
    by simp [seeking, Decoder.reset], by simp [seeking, Decoder.reset], by simp [seeking, Decoder.reset, Memory.nil_wf],
    by simp [seeking, Decoder.reset], fun _ => by simp only [seeking, State.reset]; decide, by simp [seeking],
    by simp [seeking]⟩

theorem inBody_inv (hi : Byte) (src : List Answer) : (inBody 0x9002 [0x00E4] 3 hi src).Inv :=
  ⟨by simp [inBody], by simp [inBody, Decoder.reset], by simp [inBody, Decoder.reset], by simp [inBody, Decoder.reset],
    by simp [inBody, Decoder.reset], by simp only [inBody]; decide, by simp [inBody], by simp [inBody],
    fun _ => ⟨by simp only [inBody, State.reset]; decide, by simp only [inBody, Decoder.bodyWords]; decide⟩,
    fun _ i h => by
      have e : (inBody 0x9002 [0x00E4] 3 hi src).dec.bodyIndex = 1 := by
        simp only [inBody, Decoder.bodyIndex]
        decide
      rw [e] at h
      obtain rfl : i = 0 := by omega
      simp only [inBody]
      decide⟩

theorem holding_inv : (holding p1Packet).Inv :=
  ⟨by simp [holding, Decoder.reset], by simp [holding, Decoder.reset], by simp [holding, Decoder.reset, Decoder.busy],
    by simp [holding, Decoder.reset], fun _ => p1Packet_ok, by simp [holding, Decoder.reset, Memory.nil_wf],
    by simp [holding, Decoder.reset], by simp [holding, Decoder.reset], by simp [holding, Decoder.reset],
    by simp [holding, Decoder.reset]⟩

/-- A turn to come. -/
def withTurn (t : Turn) (s : State) : State := { s with turns := [t] }

theorem witness_ResetTakesEffectInAnyState : (withTurn .resetInput (seeking 0 0 [])).turns = [.resetInput] := by decide

/-- One withdrawn request, and none. -/
theorem witness_LateAnswerIsDiscarded :
    let s := { withTurn .lateAnswer State.reset with source := [.byte 0x90], withdrawn := 1 }
    (s.turns = [.lateAnswer] ∧ s.source = [.byte 0x90] ∧ 0 < s.withdrawn) ∧
    { s with withdrawn := 0 }.withdrawn = 0 := by decide

theorem witness_DecodeNextStartsAFreshSeek : (holding p1Packet).dec.st = .idle := by decide

/-- Budget 0: both commands are accepted and the seek fails. -/
theorem witness_SetBudgetBoundsTheNextSeek :
    State.reset.dec.st = .idle ∧
    ∃ t u, exec (.setBudget 0) State.reset = .next t ∧ exec .decodeNext t = .next u := ⟨by decide, _, _, rfl, rfl⟩

theorem witness_ClearBudgetUnboundsTheSeek : State.reset.dec.st = .idle := by decide

/-- Both busy states, and the first and the last code that is ignored. -/
theorem witness_CommandsAreIgnoredWhileBusy :
    (seeking 0 0 []).dec.st = .seek ∧ (inBody 0x9001 [] 0 0 []).dec.st = .body ∧
    (0x1#4 ≠ 0x0#4 ∧ 0x1#4 ≠ 0xF#4) ∧ (0xE#4 ≠ 0x0#4 ∧ 0xE#4 ≠ 0xF#4) := by decide

theorem witness_ReservedCommandsHaveNoEffect :
    (0x4 ≤ (0x4#4).toNat ∧ (0x4#4).toNat ≤ 0xE) ∧ (0x4 ≤ (0xE#4).toNat ∧ (0xE#4).toNat ≤ 0xE) := by decide

theorem witness_IllegalStateValueFaults :
    let s := { withTurn .decoder State.reset with dec := { Decoder.reset with st := .illegal } }
    s.dec.st = .illegal ∧ s.turns = [.decoder] := by decide

/-- A packet query with a packet held and with none. -/
theorem witness_QueriesChangeNoState :
    isQuery .pktAfr ∧ (∃ t, exec .pktAfr (holding p1Packet) = .next t) ∧ PacketOk Params.spec p1Packet ∧
    State.reset.dec.pktValid = false := ⟨⟨0x12, 0, 0, rfl⟩, ⟨_, rfl⟩, p1Packet_ok, rfl⟩

/-- Two states that differ in the decoder and hold the same packet. -/
theorem witness_QueriesReadOnlyThePacket :
    let s := holding p1Packet
    let s' := { s with dec := { s.dec with pos := 9, hdr := 0x9002 } }
    isQuery .pktWords ∧ s ≠ s' ∧ s.params = s'.params ∧ s.dec.pktValid = s'.dec.pktValid ∧
    (s.dec.pktValid = true → s.dec.pkt = s'.dec.pkt) ∧
    (∃ t, exec .pktWords s = .next t) ∧ ∃ t', exec .pktWords s' = .next t' :=
  ⟨⟨0x13, 0, 0, rfl⟩, by decide, rfl, rfl, fun _ => rfl, ⟨_, rfl⟩, ⟨_, rfl⟩⟩

/-- A valid word, and for each tested bit a word that fails there first (95_test_vectors.md 2.1). -/
theorem witness_HdrValidateReportsTheFirstFailingBit :
    0x9002#16 &&& 0xA280#16 = HdrMatch.clear.word ∧
    (0x0000#16).getLsbD 15 ≠ HdrMatch.clear.word.getLsbD 15 ∧
    ((∀ j ∈ [15], (0xFFFF#16).getLsbD j = HdrMatch.clear.word.getLsbD j) ∧
      (0xFFFF#16).getLsbD 13 ≠ HdrMatch.clear.word.getLsbD 13) ∧
    ((∀ j ∈ [15, 13], (0x8280#16).getLsbD j = HdrMatch.clear.word.getLsbD j) ∧
      (0x8280#16).getLsbD 9 ≠ HdrMatch.clear.word.getLsbD 9) ∧
    ((∀ j ∈ [15, 13, 9], (0x8080#16).getLsbD j = HdrMatch.clear.word.getLsbD j) ∧
      (0x8080#16).getLsbD 7 ≠ HdrMatch.clear.word.getLsbD 7) := by decide

theorem witness_HdrSummaryDescribesValidHeaders :
    0xD902#16 &&& 0xA280#16 = HdrMatch.clear.word ∧ 0xA280#16 &&& 0xA280#16 ≠ HdrMatch.clear.word := by decide

/-- A header with RESERVED set, classified with its body and held. -/
theorem witness_ReservedHeaderBitIsIgnored :
    classify 0x2000 0x9401 5 [0x037F] = .packet { auxPacket with hdr := 0x9401 } ∧
    (holding { auxPacket with hdr := 0x9401 }).dec.pktValid = true ∧
    (holding { auxPacket with hdr := 0x9401 }).dec.pkt = { auxPacket with hdr := 0x9401 } ∧
    [0x037F#16].length ≤ 255 := by decide

/-- 5/1023, a tie-free quotient; and a quotient halfway between 2^53 and its successor. -/
theorem witness_Fl64IsNearestTiesToEven :
    (0 < 1023 ∧ 5 < 1023 * 2 ^ 1023) ∧
    ((0x3FF0000000000000#64 : F64).toNat < 2 ^ 63 ∧ F64.expField 0x3FF0000000000000#64 < 2047) ∧
    (let x := fl64 (2 ^ 53 + 1) 1
     let y : F64 := 0x4340000000000001#64
     |(x.scaled : Int) - (2 ^ 53 + 1) * F64.unitDen| = |(y.scaled : Int) - (2 ^ 53 + 1) * F64.unitDen| ∧ y ≠ x) := by
  decide +kernel

theorem witness_AuxVoltsIsOneRounding : auxRaw 0x0000 = 0 ∧ auxRaw 0x077F = 1023 := by decide
theorem witness_AuxPercentIsAFraction : auxRaw 0xF880 = 0 ∧ auxRaw 0x077F = 1023 := by decide

/-- A word of each function, in the order of the codes. -/
theorem witness_AfValueFollowsTheFunction :
    ([0x00E4, 0x04E4, 0x08E4, 0x0CE4, 0x10E4, 0x14E4, 0x18E4, 0x1CE4].map functionOf) =
    [.normal, .o2Tenths, .calibratingAir, .calRequired, .warmup, .calibratingHeat, .error, .reserved] := by decide

theorem witness_AfUnitsFollowTheFunction :
    ([0x0080, 0x0480, 0x0880, 0x0C80, 0x1080, 0x1480, 0x1880, 0x1C80].map functionOf) =
    [.normal, .o2Tenths, .calibratingAir, .calRequired, .warmup, .calibratingHeat, .error, .reserved] := by decide

/-- No packet; the empty packet; no FunctionWord; a function that is not Normal; Normal. -/
theorem witness_PacketAfrFollowsTheFormula :
    State.reset.dec.pktValid = false ∧ (holding emptyPacket).dec.pktValid = true ∧ emptyPacket.n = 0 ∧
    auxPacket.kind[0]? ≠ some .function ∧
    (p1Packet.n ≠ 0 ∧ p1Packet.kind[0]? = some .function ∧ p1Packet.body = [0x00E4, 0x0768] ∧
      functionOf 0x00E4 = .normal) ∧
    ((twoWords 0x10E4 0x0768).kind[0]? = some .function ∧ functionOf 0x10E4 ≠ .normal) := by decide

theorem witness_PacketWordsAreTheWireWords :
    State.reset.dec.pktValid = false ∧ (holding p1Packet).dec.pktValid = true ∧
    p1Packet.body.length = p1Packet.n.toNat ∧ emptyPacket.body.length = emptyPacket.n.toNat := by decide

theorem witness_ReservedQueriesAreIllegal : 0x14 ≤ (0x14#5).toNat ∧ 0x14 ≤ (0x1F#5).toNat := by decide

/-- A budget just spent. -/
theorem witness_SpentBudgetRaisesSyncTimeout :
    (seekingUnder 2 2 [.eos]).dec.st = .seek ∧ (seekingUnder 2 2 [.eos]).dec.budgetSpent = true := by decide

/-- Without a budget, and one byte below the budget. -/
theorem witness_EndOfStreamWhileSeekingRaisesStreamEnded :
    ((seeking 0x90 1 [.eos]).dec.st = .seek ∧ (seeking 0x90 1 [.eos]).dec.budgetSpent = false ∧
      (seeking 0x90 1 [.eos]).source = [.eos]) ∧
    (seekingUnder 1 2 [.eos]).dec.budgetSpent = false := by decide

/-- Also with SEEKCNT at its last value. -/
theorem witness_InvalidWindowIsSwallowed :
    let s := seeking 0xFF 0xFFFFFFFF [.byte 0x90]
    s.dec.st = .seek ∧ s.dec.budgetSpent = false ∧ s.source = [.byte 0x90] ∧
    scanWindow s.dec.sr 0x90 &&& 0xA280#16 ≠ s.params.hdrMatch.word := by decide

/-- A header of two words, and one of none. -/
theorem witness_ValidWindowLatchesTheHeader :
    (let s := seeking 0xFF90 4 [.byte 0x02]
     s.dec.st = .seek ∧ s.dec.budgetSpent = false ∧ s.source = [.byte 0x02] ∧
     0x9002#16 = s.dec.sr <<< 8 ||| (0x02#8).setWidth 16 ∧ 0x9002#16 &&& 0xA280#16 = s.params.hdrMatch.word) ∧
    wordCount 0x9002 ≠ 0 ∧
    0x9000#16 = (seeking 0x0090 1 [.byte 0x00]).dec.sr <<< 8 ||| (0x00#8).setWidth 16 ∧ wordCount 0x9000 = 0 := by
  decide

theorem witness_SilentSourceSuspendsTheDecoder :
    (seeking 0x90 1 []).source = [] ∧ (seeking 0x90 1 []).dec.st = .seek ∧
    (seeking 0x90 1 []).dec.budgetSpent = false ∧ (inBody 0x9001 [] 0 0 []).dec.st = .body := by decide

/-- The bytes `37 FF` before a header form none with what follows them (95_test_vectors.md P1). -/
theorem p1_no_earlier_header :
    ∀ (j : Nat) (x y : Byte), j < [0x37#8, 0xFF#8].length →
      ([0x37#8, 0xFF#8] ++ [0x90#8, 0x02#8])[j]? = some x →
      ([0x37#8, 0xFF#8] ++ [0x90#8, 0x02#8])[j + 1]? = some y →
      hdrValid HdrMatch.clear (Word.ofBytes x y) = false := by
  intro j x y hj hx hy
  match j, hj, hx, hy with
  | 0, _, hx, hy => cases hx; cases hy; decide
  | 1, _, hx, hy => cases hx; cases hy; decide

/-- A budget that just suffices. -/
theorem witness_ScanFindsTheFirstHeader :
    let s := seekingUnder 0 4 ([0x37, 0xFF, 0x90, 0x02].map .byte)
    s.dec.st = .seek ∧ s.dec.sr = 0 ∧ s.dec.seekCnt = 0 ∧
    s.source = ([0x37, 0xFF] ++ [0x90, 0x02]).map .byte ++ [] ∧
    hdrValid s.params.hdrMatch (Word.ofBytes 0x90 0x02) = true ∧
    (∀ (j : Nat) (x y : Byte), j < [0x37#8, 0xFF#8].length →
      ([0x37#8, 0xFF#8] ++ [0x90#8, 0x02#8])[j]? = some x →
      ([0x37#8, 0xFF#8] ++ [0x90#8, 0x02#8])[j + 1]? = some y →
      hdrValid s.params.hdrMatch (Word.ofBytes x y) = false) ∧
    (s.dec.budgetEn = true → [0x37#8, 0xFF#8].length + 2 ≤ s.dec.maxBytes.toNat) :=
  ⟨by decide, by decide, by decide, by decide, by decide, p1_no_earlier_header, by decide⟩

/-- One byte into a seek under a budget of two. -/
theorem witness_SeekNeverExceedsTheBudget :
    let s := seekingUnder 0 2 [.byte 0x00, .byte 0x90]
    s.dec.st = .seek ∧ s.dec.seekCnt = 0 ∧ s.dec.budgetEn = true ∧
    ∃ t, decoderRun 1 s = .next t ∧ t.dec.st = .seek := ⟨by decide, by decide, by decide, _, rfl, by decide⟩

theorem witness_EndOfStreamInBodyRaisesTruncatedStream :
    let s := inBody 0x9002 [0x00E4] 3 0x07 [.eos]
    s.dec.st = .body ∧ s.dec.bcnt.toNat < 2 * s.dec.bodyWords ∧ s.source = [.eos] := by decide

/-- The premises on a body byte `b` that completes the word `w` of class `c`, other than which byte it is. -/
def completes (s : State) (b : Byte) (w : Word) (c : WordClass) : Bool :=
  s.dec.st = .body ∧ s.source = [.byte b] ∧ s.dec.bcnt.toNat % 2 = 1 ∧ w = s.dec.hibyte ++ b ∧
    wordClass s.params.lmMask s.bodyPlace w = c

/-- The first byte of a body, and the low byte of a word that is not the last, of each class at its place. -/
theorem witness_BodyBytesAreStoredAsWords :
    (let s := inBody 0x9001 [] 0 0 [.byte 0x00]
     s.dec.st = .body ∧ s.dec.bcnt.toNat < 2 * s.dec.bodyWords ∧ s.source = [.byte 0x00] ∧ s.dec.bcnt.toNat % 2 = 0) ∧
    ∀ x ∈ [(inBody 0x9004 [] 1 0x20 [.byte 0xE4], 0xE4, 0x20E4, WordClass.lm1),
        (inBody 0x9004 [] 1 0x00 [.byte 0xE4], 0xE4, 0x00E4, .function),
        (inBody 0x9004 [0x00E4] 3 0x07 [.byte 0x68], 0x68, 0x0768, .lambda),
        (inBody 0x9004 [0x00E4, 0x0768] 5 0x0A [.byte 0x05], 0x05, 0x0A05, .battery),
        (inBody 0x9004 [0x00E4, 0x0768] 5 0x03 [.byte 0x7F], 0x7F, 0x037F, .aux)],
      completes x.1 x.2.1 x.2.2.1 x.2.2.2 = true ∧ x.1.dec.bcnt.toNat + 1 < 2 * x.1.dec.bodyWords := by decide

/-- The words received whole before the last byte. -/
def receivedAre (s : State) (ws : List Word) : Bool :=
  ws.length + 1 = s.dec.bodyWords ∧ (List.range ws.length).all fun j => s.dec.bodyBuf.read j = ws[j]?

theorem receivedAre_reads {s : State} {ws : List Word} (h : receivedAre s ws = true) :
    ws.length + 1 = s.dec.bodyWords ∧ ∀ j, j < ws.length → s.dec.bodyBuf.read j = ws[j]? := by
  simpa [receivedAre] using h

/-- The last byte of a frame whose last word is of each class: frames of one, one, two, three and one words. By
`receivedAre_reads` the last premise is met too. -/
theorem witness_LastBodyByteClassifiesTheFrame :
    ∀ x ∈ [(inBody 0x9001 [] 1 0x20 [.byte 0xE4], 0xE4, 0x20E4, WordClass.lm1, ([] : List Word)),
        (inBody 0x9001 [] 1 0x00 [.byte 0xE4], 0xE4, 0x00E4, .function, []),
        (inBody 0x9002 [0x00E4] 3 0x07 [.byte 0x68], 0x68, 0x0768, .lambda, [0x00E4]),
        (inBody 0x9003 [0x00E4, 0x0768] 5 0x0A [.byte 0x05], 0x05, 0x0A05, .battery, [0x00E4, 0x0768]),
        (inBody 0x9001 [] 1 0x03 [.byte 0x7F], 0x7F, 0x037F, .aux, [])],
      completes x.1 x.2.1 x.2.2.1 x.2.2.2.1 = true ∧ x.1.dec.bcnt.toNat + 1 = 2 * x.1.dec.bodyWords ∧
      receivedAre x.1 x.2.2.2.2 = true := by decide

/-- A body for each case of the classification (95_test_vectors.md 2.5). -/
theorem witness_ClassifyEndsTheFrame :
    (([] : List Word).length = (wordCount 0x9000).toNat ∧ (seeking 0x9000 2 []).dec.st = .seek) ∧
    ([0x20E4#16].length = (wordCount 0x9001).toNat ∧ (inBody 0x9001 [] 1 0 []).dec.st = .body ∧
      0x20E4#16 &&& 0x2000#16 ≠ 0) ∧
    (0x0080#16 &&& 0x2000#16 = 0 ∧ (0x0080#16).getLsbD 7 = true) ∧
    ([0x0080#16, 0x0768#16, 0x037F#16].length = (wordCount 0x9003).toNat ∧ 0x037F#16 &&& 0x3800#16 = 0) ∧
    0x0800#16 &&& 0x3800#16 ≠ 0 ∧ (0x037F#16 &&& 0x2000#16 = 0 ∧ (0x037F#16).getLsbD 7 = false) := by decide

theorem witness_EmittedPacketsKeepTheInvariants :
    hdrValid Params.spec.hdrMatch 0x9002 = true ∧ [0x00E4#16, 0x0768#16].length = (wordCount 0x9002).toNat ∧
    classify Params.spec.lmMask 0x9002 3 [0x00E4, 0x0768] = .packet p1Packet := by decide

/-- A word at each place that a rule names, and a word 0 with the LM-1 marker. -/
theorem witness_PositionalClassesAreTheKinds :
    (∃ P, classify 0x2000 0x9004 0 [0x00E4, 0x0768, 0x0A05, 0x077F] = .packet P) ∧
    [0x00E4#16, 0x0768#16, 0x0A05#16, 0x077F#16][2]? = some 0x0A05#16 ∧
    wordClass 0x2000 ⟨0, startsWithFunction 0x2000 [0x20E4]⟩ 0x20E4 = .lm1 := ⟨⟨_, rfl⟩, by decide, by decide⟩

/-- A stream that ends when the budget is spent; two failing bits; both markers in a frame of one word; no
FunctionWord, with and without PKT_VALID. -/
theorem witness_ErrorPriorityIsAsListed :
    ((seekingUnder 2 2 [.eos]).dec.st = .seek ∧ (seekingUnder 2 2 [.eos]).dec.budgetSpent = true ∧
      (seekingUnder 2 2 [.eos]).source = [.eos]) ∧
    ((∀ j ∈ [15, 13], (0x8280#16).getLsbD j = HdrMatch.clear.word.getLsbD j) ∧
      (0x8280#16).getLsbD 9 ≠ HdrMatch.clear.word.getLsbD 9) ∧
    (0x20E4#16 &&& 0x2000#16 ≠ 0 ∧ (0x20E4#16).getLsbD 7 = true) ∧
    ((holding emptyPacket).dec.pkt.n = 0 ∧ (holding emptyPacket).dec.pktValid = true ∧
      State.reset.dec.pkt.n = 0 ∧ State.reset.dec.pktValid = false) := by decide

theorem witness_BodyOnTheWireIsReadAsItsWords :
    let s := inBody 0x9002 [] 0 0 ([0x00, 0xE4, 0x07, 0x68].map .byte ++ [.eos])
    s.dec.st = .body ∧ s.dec.bcnt = 0 ∧ [0x00E4#16, 0x0768#16] ≠ [] ∧
    [0x00E4#16, 0x0768#16].length = s.dec.bodyWords ∧
    s.source = (wireBytes [0x00E4, 0x0768]).map .byte ++ [.eos] ∧
    classify s.params.lmMask s.dec.hdr s.dec.hdrOff [0x00E4, 0x0768] = .packet { p1Packet with off := 0 } ∧
    classify s.params.lmMask s.dec.hdr s.dec.hdrOff [0x20E4, 0x0768] = .error .unsupportedVariant ⟨0, 0x20E4⟩ := by
  decide

/-- 95_test_vectors.md P1 from its second byte on. -/
theorem witness_FrameOnTheWireIsHandedOver :
    let s := seeking 0 0 ([0x37, 0xFF, 0x90, 0x02, 0x00, 0xE4, 0x07, 0x68].map .byte ++ [.eos])
    s.dec.st = .seek ∧ s.dec.sr = 0 ∧ s.dec.seekCnt = 0 ∧ s.dec.pktValid = false ∧ s.dec.errValid = false ∧
    s.source = ([0x37, 0xFF] ++ wireBytes (0x9002 :: [0x00E4, 0x0768])).map .byte ++ [.eos] ∧
    hdrValid s.params.hdrMatch 0x9002 = true ∧ [0x00E4#16, 0x0768#16].length = (wordCount 0x9002).toNat ∧
    (∀ (j : Nat) (x y : Byte), j < [0x37#8, 0xFF#8].length →
      ([0x37#8, 0xFF#8] ++ [Word.hi 0x9002, Word.lo 0x9002])[j]? = some x →
      ([0x37#8, 0xFF#8] ++ [Word.hi 0x9002, Word.lo 0x9002])[j + 1]? = some y →
      hdrValid s.params.hdrMatch (Word.ofBytes x y) = false) ∧
    (s.dec.budgetEn = true → [0x37#8, 0xFF#8].length + 2 ≤ s.dec.maxBytes.toNat) :=
  ⟨by decide, by decide, by decide, by decide, by decide, by decide, by decide, by decide, p1_no_earlier_header,
    by decide⟩

/-- A turn of each agent; in SEEK a byte that completes a header, one that does not, and EOS; in BODY a low byte, a
high byte and EOS. -/
theorem witness_StepRunsTheDecodedOperation :
    (withTurn (.command 0x1 0) State.reset).turns = [.command 0x1 0] ∧
    (withTurn (.query 0x12 0 0) State.reset).turns = [.query 0x12 0 0] ∧
    (seekingUnder 2 2 []).dec.budgetSpent = true ∧ (seeking 0x90 1 []).dec.budgetSpent = false ∧
    decodeWindow Params.spec (scanWindow (seeking 0x90 1 [.byte 0x00]).dec.sr 0x00) = .ok (.header 0x9000) ∧
    decodeWindow Params.spec (scanWindow (seeking 0x90 1 [.byte 0xFF]).dec.sr 0xFF) = .error (.invalidHeader 7) ∧
    (seeking 0x90 1 [.eos]).source = [.eos] ∧ (inBody 0x9001 [] 1 0x00 [.byte 0x80]).dec.bcnt.toNat % 2 = 1 ∧
    (inBody 0x9001 [] 0 0x00 [.byte 0x80]).dec.bcnt.toNat % 2 = 0 := by decide

theorem witness_PlacedTableWordIsRun :
    State.reset.params = Params.spec ∧ decodeTableWord 16 0x0800 = some (.batteryWord 0x0800) ∧
    decodeTableWord 8 0xF = some .reset ∧ decodeTableWord 8 0x1F = some .reservedQ1F := by decide

/-- An operation of each port at a boundary operand; and an operation with no encoding. -/
theorem witness_DecodeInvertsEncode :
    (Instr.wf Params.spec (.header 0xDD7F) = true ∧ encode (.header 0xDD7F) = some (.window, [0xDD, 0x7F])) ∧
    (Instr.wf Params.spec (.setBudget 0xFFFFFFFF) = true ∧
      encode (.setBudget 0xFFFFFFFF) = some (.command, [0x02, 0xFF, 0xFF, 0xFF, 0xFF])) ∧
    (Instr.wf Params.spec (.auxVolts 0xFFFF) = true ∧ encode (.auxVolts 0xFFFF) = some (.query, [0x0D, 0xFF, 0xFF])) ∧
    (Instr.wf Params.spec (.batteryWord 0x0800) = true ∧
      encode (.batteryWord 0x0800) = some (.body ⟨2, true⟩, [0x08, 0x00])) ∧
    encode .scanByte = none ∧
    decodeBodyWord Params.spec ⟨3, true⟩ 0x077F = decodeBodyWord Params.spec ⟨3, true⟩ 0x077F := by decide

theorem witness_EveryStepKeepsTheInvariant :
    (inBody 0x9002 [0x00E4] 3 0x07 [.byte 0x68]).Inv ∧ ∃ t, step (inBody 0x9002 [0x00E4] 3 0x07 [.byte 0x68]) = .next t :=
  ⟨inBody_inv _ _, _, rfl⟩

theorem witness_NoStepFaultsUnderTheInvariant : (withTurn (.query 0x12 0 0) (holding p1Packet)).Inv := holding_inv

/-- A seek on a stream that ends at once, and a body on one that ends in it. -/
theorem witness_EveryDecodeCompletes :
    ((seeking 0 1 [.eos]).Inv ∧ (seeking 0 1 [.eos]).dec.busy = true ∧
      (seeking 0 1 [.eos]).source = ([] : List Byte).map .byte ++ [.eos]) ∧
    ((inBody 0x9002 [0x00E4] 3 0x07 [.byte 0x68, .eos]).Inv ∧
      (inBody 0x9002 [0x00E4] 3 0x07 [.byte 0x68, .eos]).dec.busy = true ∧
      (inBody 0x9002 [0x00E4] 3 0x07 [.byte 0x68, .eos]).source = [0x68#8].map .byte ++ [.eos]) :=
  ⟨⟨seeking_inv _ _, by decide, by decide⟩, inBody_inv _ _, by decide, by decide⟩

theorem witness_PosCountsTheBytesConsumed :
    (seeking 0x37FF 3 [.byte 0x90]).turns = [.decoder] ∧ ∃ t, step (seeking 0x37FF 3 [.byte 0x90]) = .next t :=
  ⟨by decide, _, rfl⟩

theorem witness_OnlyDecodeNextLeavesIdle :
    (withTurn (.command 0x1 0) State.reset).dec.st = .idle ∧
    ∃ t, step (withTurn (.command 0x1 0) State.reset) = .next t ∧ t.dec.st = .seek := ⟨by decide, _, rfl, by decide⟩

/-- A body byte that with the byte before it would be a header. -/
theorem witness_BodyBytesAreNotScanned :
    (inBody 0x9002 [] 1 0x90 [.byte 0x00]).dec.st = .body ∧ (inBody 0x9002 [] 1 0x90 [.byte 0x00]).turns = [.decoder] ∧
    ∃ t, step (inBody 0x9002 [] 1 0x90 [.byte 0x00]) = .next t := ⟨by decide, by decide, _, rfl⟩

theorem witness_PacketIsWrittenOnlyByEmit :
    ∃ t, step (inBody 0x9002 [0x00E4] 3 0x07 [.byte 0x68]) = .next t ∧ t.dec.pkt = { p1Packet with off := 0 } :=
  ⟨_, rfl, by decide⟩

theorem witness_ConfigurationIsWrittenOnlyByCommands :
    ∃ t, step (withTurn (.command 0x2 0xFFFFFFFF) State.reset) = .next t ∧ t.dec.maxBytes = 0xFFFFFFFF :=
  ⟨_, rfl, by decide⟩

end Sys2Proof.Tests
end

section
/-! PROOF of O23: `fl64` is the nearest binary64, ties to even (00_scope.md R18).

A finite non-negative binary64 is `significand * 2 ^ step` units of 2^-1074 (`F64.scaled_eq`), and its bits are
`step * 2 ^ 52 + significand` (`F64.toNat_eq`). The value of `fl64 p q` is the nearest multiple of the unit at
`expStep p q`. Every binary64 is such a multiple or lies below the binade of `p / q`, where no value is as near as
the binade's first one. -/

namespace Sys2Proof

/-! ### A binary64 as a significand and a step -/

/-- The significand with its leading bit, which a subnormal value does not have. -/
def F64.significand (x : F64) : Nat := if x.expField = 0 then x.fraction else 2 ^ 52 + x.fraction

/-- The exponent step: the unit in the last place is `2 ^ step` units of 2^-1074. -/
def F64.step (x : F64) : Nat := x.expField - 1

theorem F64.scaled_eq (x : F64) : x.scaled = x.significand * 2 ^ x.step := by
  unfold F64.scaled F64.significand F64.step
  split
  case isTrue h => simp [h]
  case isFalse => rfl

theorem F64.fraction_eq (x : F64) : x.fraction = x.toNat % 2 ^ 52 := by
  simp [F64.fraction]

theorem F64.expField_eq {x : F64} (hx : x.toNat < 2 ^ 63) : x.expField = x.toNat / 2 ^ 52 := by
  simp only [F64.expField, BitVec.extractLsb'_toNat, Nat.shiftRight_eq_div_pow]
  omega

theorem F64.significand_lt (x : F64) : x.significand < 2 ^ 53 := by
  have hf := x.fraction_eq
  unfold F64.significand
  split <;> omega

theorem F64.step_eq_zero_or_le_significand (x : F64) : x.step = 0 ∨ 2 ^ 52 ≤ x.significand := by
  unfold F64.significand F64.step
  split <;> omega

theorem F64.toNat_eq {x : F64} (hx : x.toNat < 2 ^ 63) : x.toNat = x.step * 2 ^ 52 + x.significand := by
  have hf := x.fraction_eq
  have he := F64.expField_eq hx
  unfold F64.significand F64.step
  split <;> omega

/-- The value is determined by the sum that `fl64` builds, a significand that carried to `2 ^ 53` included. -/
theorem F64.scaled_of_toNat {x : F64} {t m : Nat} (hx : x.toNat = t * 2 ^ 52 + m) (ht : t ≤ 2044)
    (hm : m ≤ 2 ^ 53) (hnorm : t = 0 ∨ 2 ^ 52 ≤ m) : x.scaled = m * 2 ^ t := by
  have hbits := F64.toNat_eq (x := x) (by omega)
  have hlt := x.significand_lt
  have hor := x.step_eq_zero_or_le_significand
  rw [F64.scaled_eq]
  rcases Nat.lt_or_eq_of_le hm with hm | rfl
  case inl =>
    have hs : x.step = t := by omega
    have hsig : x.significand = m := by omega
    rw [hs, hsig]
  case inr =>
    have hs : x.step = t + 1 := by omega
    have hsig : x.significand = 2 ^ 52 := by omega
    rw [hs, hsig]
    ring

theorem F64.scaled_lt_of_step_lt {y : F64} {t : Nat} (h : y.step < t) : y.scaled < 2 ^ 52 * 2 ^ t :=
  calc y.scaled = y.significand * 2 ^ y.step := y.scaled_eq
    _ < 2 ^ 53 * 2 ^ y.step := Nat.mul_lt_mul_of_pos_right y.significand_lt (by positivity)
    _ = 2 ^ 52 * 2 ^ (y.step + 1) := by ring
    _ ≤ 2 ^ 52 * 2 ^ t := Nat.mul_le_mul_left _ (Nat.pow_le_pow_right (by omega) h)

theorem F64.scaled_multiple_of_le_step {y : F64} {t : Nat} (h : t ≤ y.step) : ∃ k, y.scaled = k * 2 ^ t :=
  ⟨y.significand * 2 ^ (y.step - t), by rw [y.scaled_eq, mul_assoc, ← pow_add, Nat.sub_add_cancel h]⟩

/-- A value at a lower step is below every normal value at a higher one. -/
theorem F64.step_le_of_scaled_eq {x y : F64} (h : x.scaled = y.scaled) : y.step ≤ x.step := by
  by_contra! hlt
  have hnorm := y.step_eq_zero_or_le_significand.resolve_left (by omega)
  have hy : 2 ^ 52 * 2 ^ y.step ≤ y.scaled := y.scaled_eq ▸ Nat.mul_le_mul_right _ hnorm
  exact (F64.scaled_lt_of_step_lt hlt).not_ge (h ▸ hy)

theorem F64.eq_of_scaled_eq {x y : F64} (hx : x.toNat < 2 ^ 63) (hy : y.toNat < 2 ^ 63)
    (h : x.scaled = y.scaled) : x = y := by
  have hstep : x.step = y.step :=
    le_antisymm (F64.step_le_of_scaled_eq h.symm) (F64.step_le_of_scaled_eq h)
  have hsig : x.significand = y.significand := by
    rw [x.scaled_eq, y.scaled_eq, hstep] at h
    exact Nat.eq_of_mul_eq_mul_right (by positivity) h
  apply BitVec.eq_of_toNat_eq
  rw [F64.toNat_eq hx, F64.toNat_eq hy, hstep, hsig]

/-! ### Rounding to a natural number -/

theorem roundNearestEven_le {a b k : Nat} (h : a < k * b) : roundNearestEven a b ≤ k := by
  have hdiv : a / b < k := Nat.div_lt_of_lt_mul (by rwa [mul_comm])
  unfold roundNearestEven
  split_ifs <;> omega

theorem le_roundNearestEven {a b k : Nat} (hb : 0 < b) (h : k * b ≤ a) : k ≤ roundNearestEven a b := by
  have hdiv : k ≤ a / b := (Nat.le_div_iff_mul_le hb).2 h
  unfold roundNearestEven
  split_ifs <;> omega

/-- The error is at most half a unit, and just half a unit only where the result is even. -/
theorem roundNearestEven_error (a b : Nat) (hb : 0 < b) :
    2 * |(roundNearestEven a b * b : Int) - a| ≤ b ∧
    (2 * |(roundNearestEven a b * b : Int) - a| = b → roundNearestEven a b % 2 = 0) := by
  have hmod := Nat.mod_lt a hb
  have hdiv : (a : Int) = (a / b : Nat) * b + (a % b : Nat) := by
    exact_mod_cast (Nat.div_add_mod' a b).symm
  have hdown : |((a / b : Nat) * b : Int) - a| = (a % b : Nat) := by
    rw [hdiv, sub_add_cancel_left, abs_neg, Nat.abs_cast]
  have hup : |((a / b + 1 : Nat) * b : Int) - a| = b - (a % b : Nat) := by
    have hrest : ((a / b + 1 : Nat) * b : Int) - a = (b - a % b : Nat) := by
      rw [Nat.cast_sub hmod.le, Nat.cast_succ]
      linarith
    rw [hrest, Nat.abs_cast, Nat.cast_sub hmod.le]
  unfold roundNearestEven
  split_ifs with hlow hhigh
  case pos => rw [hdown]; omega
  case pos => rw [hup]; omega
  case neg =>
    rcases Nat.mod_two_eq_zero_or_one (a / b) with heven | hodd
    · rw [heven, Nat.add_zero, hdown]; omega
    · rw [hodd, hup]; omega

/-- Two multiples of `b` are at least `b` apart, so no other one is nearer than half a unit. -/
theorem roundNearestEven_nearest (a b k : Nat) (hb : 0 < b) :
    |(roundNearestEven a b * b : Int) - a| ≤ |(k * b : Int) - a| ∧
    (|(roundNearestEven a b * b : Int) - a| = |(k * b : Int) - a| → k ≠ roundNearestEven a b →
      roundNearestEven a b % 2 = 0) := by
  obtain ⟨hhalf, htie⟩ := roundNearestEven_error a b hb
  rcases eq_or_ne k (roundNearestEven a b) with rfl | hne
  case inl => exact ⟨le_rfl, fun _ h => absurd rfl h⟩
  case inr =>
    have hapart : (b : Int) ≤ |(k * b : Int) - roundNearestEven a b * b| := by
      rw [← sub_mul, abs_mul, Nat.abs_cast]
      exact le_mul_of_one_le_left (by positivity) (Int.one_le_abs (by omega))
    have htri := abs_sub_le (k * b : Int) a (roundNearestEven a b * b)
    rw [abs_sub_comm (a : Int)] at htri
    exact ⟨by linarith, fun heq _ => htie (by linarith)⟩

/-! ### The step of `fl64` and its result -/

theorem lt_of_expStep (p q : Nat) (hq : 0 < q) : p * F64.unitDen < 2 ^ 53 * (q * 2 ^ expStep p q) := by
  have h : p * 2 ^ 1022 < 2 ^ (expStep p q + 1) * q := (Nat.div_lt_iff_lt_mul hq).1 Nat.lt_log2_self
  calc p * F64.unitDen = p * 2 ^ 1022 * 2 ^ 52 := by rw [F64.unitDen, mul_assoc, ← pow_add]
    _ < 2 ^ (expStep p q + 1) * q * 2 ^ 52 := Nat.mul_lt_mul_of_pos_right h (by positivity)
    _ = 2 ^ 53 * (q * 2 ^ expStep p q) := by ring

theorem le_of_expStep {p q : Nat} (hq : 0 < q) (ht : expStep p q ≠ 0) :
    2 ^ 52 * (q * 2 ^ expStep p q) ≤ p * F64.unitDen := by
  have hne : p * 2 ^ 1022 / q ≠ 0 := fun h0 => ht (by rw [expStep, h0, Nat.log2_zero])
  have h : 2 ^ expStep p q * q ≤ p * 2 ^ 1022 := (Nat.le_div_iff_mul_le hq).1 (Nat.log2_self_le hne)
  calc 2 ^ 52 * (q * 2 ^ expStep p q) = 2 ^ expStep p q * q * 2 ^ 52 := by ring
    _ ≤ p * 2 ^ 1022 * 2 ^ 52 := Nat.mul_le_mul_right _ h
    _ = p * F64.unitDen := by rw [F64.unitDen, mul_assoc, ← pow_add]

theorem expStep_lt {p q k : Nat} (hq : 0 < q) (hp : p < q * 2 ^ k) : expStep p q < k + 1022 := by
  by_cases h0 : p * 2 ^ 1022 / q = 0
  · rw [expStep, h0, Nat.log2_zero]; omega
  · rw [expStep, Nat.log2_lt h0, Nat.div_lt_iff_lt_mul hq]
    calc p * 2 ^ 1022 < q * 2 ^ k * 2 ^ 1022 := Nat.mul_lt_mul_of_pos_right hp (by positivity)
      _ = 2 ^ (k + 1022) * q := by rw [pow_add, mul_assoc, mul_comm q]

theorem expStep_le {p q : Nat} (hq : 0 < q) (hp : p < q * 2 ^ 1023) : expStep p q ≤ 2044 :=
  Nat.le_of_lt_succ (expStep_lt hq hp)

/-- The significand that `fl64` rounds to, `2 ^ 53` where it carries. -/
def roundedSignificand (p q : Nat) : Nat := roundNearestEven (p * F64.unitDen) (q * 2 ^ expStep p q)

theorem roundedSignificand_le (p q : Nat) (hq : 0 < q) : roundedSignificand p q ≤ 2 ^ 53 :=
  roundNearestEven_le (lt_of_expStep p q hq)

theorem expStep_eq_zero_or_le_roundedSignificand (p q : Nat) (hq : 0 < q) :
    expStep p q = 0 ∨ 2 ^ 52 ≤ roundedSignificand p q :=
  or_iff_not_imp_left.2 fun ht => le_roundNearestEven (by positivity) (le_of_expStep hq ht)

theorem fl64_eq (p q : Nat) :
    fl64 p q = BitVec.ofNat 64 (min F64.infBits (expStep p q * 2 ^ 52 + roundedSignificand p q)) := by
  rw [fl64, roundedSignificand, F64.unitDen]

theorem fl64_toNat {p q : Nat} (hq : 0 < q) (hp : p < q * 2 ^ 1023) :
    (fl64 p q).toNat = expStep p q * 2 ^ 52 + roundedSignificand p q := by
  have ht := expStep_le hq hp
  have hm := roundedSignificand_le p q hq
  rw [fl64_eq, BitVec.toNat_ofNat, F64.infBits]
  omega

theorem fl64_scaled {p q : Nat} (hq : 0 < q) (hp : p < q * 2 ^ 1023) :
    (fl64 p q).scaled = roundedSignificand p q * 2 ^ expStep p q :=
  F64.scaled_of_toNat (fl64_toNat hq hp) (expStep_le hq hp) (roundedSignificand_le p q hq)
    (expStep_eq_zero_or_le_roundedSignificand p q hq)

theorem fl64_finite {p q : Nat} (hq : 0 < q) (hp : p < q * 2 ^ 1023) :
    (fl64 p q).toNat < 2 ^ 63 ∧ (fl64 p q).expField < 2047 := by
  have hbits := fl64_toNat hq hp
  have ht := expStep_le hq hp
  have hm := roundedSignificand_le p q hq
  have hpos : (fl64 p q).toNat < 2 ^ 63 := by omega
  rw [F64.expField_eq hpos]
  omega

/-! ### Distances to the exact quotient -/

/-- The distance of `s` units of 2^-1074 to `p / q`, times `q * 2 ^ 1074`. -/
def distance (p q s : Nat) : Int := |(s * q : Int) - p * F64.unitDen|

theorem distance_multiple (p q k t : Nat) :
    distance p q (k * 2 ^ t) = |(k * (q * 2 ^ t : Nat) : Int) - (p * F64.unitDen : Nat)| := by
  unfold distance
  push_cast
  congr 2
  ring

/-- Among the multiples of its own unit `fl64` is the nearest, and in a tie the even one. -/
theorem fl64_nearest_multiple {p q : Nat} (hq : 0 < q) (hp : p < q * 2 ^ 1023) (k : Nat) :
    distance p q (fl64 p q).scaled ≤ distance p q (k * 2 ^ expStep p q) ∧
    (distance p q (fl64 p q).scaled = distance p q (k * 2 ^ expStep p q) →
      k ≠ roundedSignificand p q → (fl64 p q).toNat % 2 = 0) := by
  obtain ⟨hle, htie⟩ := roundNearestEven_nearest (p * F64.unitDen) (q * 2 ^ expStep p q) k (by positivity)
  rw [fl64_scaled hq hp, distance_multiple, distance_multiple]
  refine ⟨hle, fun heq hne => ?_⟩
  have heven : roundedSignificand p q % 2 = 0 := htie heq hne
  have hbits := fl64_toNat hq hp
  omega

/-- Below the quotient, a smaller value is farther away. -/
theorem distance_lt_of_lt {p q s s' : Nat} (hq : 0 < q) (hs : s < s') (hs' : s' * q ≤ p * F64.unitDen) :
    distance p q s' < distance p q s := by
  have hle : (s' * q : Int) ≤ p * F64.unitDen := mod_cast hs'
  have hlt : (s * q : Int) < s' * q := mod_cast Nat.mul_lt_mul_of_pos_right hs hq
  rw [distance, distance, abs_of_nonpos (by linarith), abs_of_nonpos (by linarith)]
  linarith

/-- A value at a lower step is farther away than the first value of the quotient's binade, which is a multiple of
`fl64`'s unit; a value at its step or a higher one is itself such a multiple. -/
theorem fl64_nearest {p q : Nat} (hq : 0 < q) (hp : p < q * 2 ^ 1023) {y : F64} (hy : y.toNat < 2 ^ 63) :
    distance p q (fl64 p q).scaled ≤ distance p q y.scaled ∧
    (distance p q (fl64 p q).scaled = distance p q y.scaled → y ≠ fl64 p q → (fl64 p q).toNat % 2 = 0) := by
  rcases Nat.lt_or_ge y.step (expStep p q) with hlow | hge
  case inl =>
    have hfirst : 2 ^ 52 * 2 ^ expStep p q * q ≤ p * F64.unitDen := by
      simpa only [mul_comm, mul_left_comm] using le_of_expStep hq (by omega)
    have hlt : distance p q (fl64 p q).scaled < distance p q y.scaled :=
      (fl64_nearest_multiple hq hp _).1.trans_lt
        (distance_lt_of_lt hq (F64.scaled_lt_of_step_lt hlow) hfirst)
    exact ⟨hlt.le, fun heq => absurd heq hlt.ne⟩
  case inr =>
    obtain ⟨k, hk⟩ := F64.scaled_multiple_of_le_step hge
    obtain ⟨hle, htie⟩ := fl64_nearest_multiple hq hp k
    rw [hk]
    refine ⟨hle, fun heq hne => htie heq ?_⟩
    rintro rfl
    exact hne (F64.eq_of_scaled_eq hy (fl64_finite hq hp).1 (hk.trans (fl64_scaled hq hp).symm))

/-- Settles O23: `fl64_finite` gives the range, and `fl64_nearest` compares with every other value by its step. -/
theorem fl64IsNearestTiesToEven : Obligations.Fl64IsNearestTiesToEven := by
  unfold Obligations.Fl64IsNearestTiesToEven
  intro p q hq hp
  obtain ⟨hpos, hexp⟩ := fl64_finite hq hp
  exact ⟨hpos, hexp, fun y hy _ => fl64_nearest hq hp hy⟩

end Sys2Proof
end

section
/-! What one step does, said once: the operation that each agent's turn runs (`TurnEffect`, `step_next`), and
in which states it answers. The proofs about every step are case splits on `TurnEffect`. -/

namespace Sys2Proof.Machine

open Sys2Proof

/-- The outcome of what a turn comes to (70_reset_and_hazards.md R350). -/
def Fetched.perform : Fetched → Host.Outcome State Fault Refusal
  | .run i s => exec i s
  | .rest s => .next s
  | .stop f => .fault f

theorem step_nil {s : State} (hturns : s.turns = []) : step s = .next s :=
  step_rest (by unfold State.fetch; rw [hturns])

theorem step_cons {s : State} {u : Turn} {ts : List Turn} (hturns : s.turns = u :: ts) :
    step s = (State.fetchTurn u { s with turns := ts }).perform := by
  have hfetch : s.fetch = State.fetchTurn u { s with turns := ts } := by unfold State.fetch; rw [hturns]
  unfold step
  rw [hfetch]
  cases State.fetchTurn u { s with turns := ts } <;> rfl

/-- An answer to no request breaks the source's protocol (70_reset_and_hazards.md R346). -/
theorem fetchTurn_lateAnswer_unowed {s : State} (hwithdrawn : s.withdrawn = 0) :
    State.fetchTurn .lateAnswer s = .stop .answerWithoutRequest := if_pos hwithdrawn

theorem fetchTurn_lateAnswer_owed {s : State} (hwithdrawn : s.withdrawn ≠ 0) :
    State.fetchTurn .lateAnswer s = .rest s.discardAnswer := if_neg hwithdrawn

/-! ### The decoder's turn -/

theorem execScanByte_seek {s : State} (hst : s.dec.st = .seek) : execScanByte s = .next s.scanStep := by
  unfold execScanByte
  rw [hst]

theorem execBodyByte_body {s : State} (hst : s.dec.st = .body) : execBodyByte s = s.bodyStep := by
  unfold execBodyByte
  rw [hst]

/-- While the source is silent a seek under no spent budget waits (42_scanner.md R209). -/
theorem scanStep_silent {s : State} (hbudget : s.dec.budgetSpent = false) (hsource : s.source = []) :
    s.scanStep = s := by
  simp [State.scanStep, hbudget, State.readByte, hsource]

/-- A window is decoded as HEADER where it is a valid header (30_encoding.md R91). -/
theorem decodeWindow_ok {p : Params} {w : Word} {i : Instr} (h : decodeWindow p w = .ok i) :
    i = .header w ∧ hdrValid p.hdrMatch w = true := by
  unfold decodeWindow at h
  split at h
  case h_1 hcheck =>
    cases h
    exact ⟨rfl, by simp [hdrValid, hcheck]⟩
  case h_2 => cases h

/-- The HEADER step of the pending window is the scan step (42_scanner.md R203). -/
theorem exec_decodeWindow {s : State} {w : Word} {i : Instr} (hwindow : s.pendingWindow = some w)
    (hdecode : decodeWindow s.params w = .ok i) : exec i s = execScanByte s := by
  obtain ⟨rfl, hvalid⟩ := decodeWindow_ok hdecode
  exact if_pos ⟨hwindow, hvalid⟩

/-- The word class of the pending body word is the body step (30_encoding.md R100). -/
theorem exec_decodeBodyWord {s : State} {w : Word} (hword : s.pendingBodyWord = some w) :
    exec (decodeBodyWord s.params s.bodyPlace w) s = execBodyByte s := by
  unfold decodeBodyWord
  cases hclass : wordClass s.params.lmMask s.bodyPlace w <;> exact if_pos ⟨hword, hclass⟩

theorem fetchDecoder_idle {s : State} (hst : s.dec.st = .idle) : s.fetchDecoder = .rest s := by
  unfold State.fetchDecoder
  rw [hst]

theorem fetchDecoder_illegal {s : State} (hst : s.dec.st = .illegal) :
    s.fetchDecoder = .stop .illegalState := by
  unfold State.fetchDecoder
  rw [hst]

/-- In SEEK the decoder's turn is the scan step, however it was fetched (42_scanner.md R202). -/
theorem perform_fetchDecoder_seek {s : State} (hst : s.dec.st = .seek) :
    s.fetchDecoder.perform = .next s.scanStep := by
  have hscan : exec .scanByte s = .next s.scanStep := execScanByte_seek hst
  unfold State.fetchDecoder
  rw [hst]
  simp only
  split
  case isTrue => exact hscan
  case isFalse hbudget =>
    split
    case isTrue hsource => rw [scanStep_silent (by simpa using hbudget) hsource]; rfl
    case isFalse =>
      split
      case h_2 => exact hscan
      case h_1 w hwindow =>
        split
        case h_1 i hdecode => exact (exec_decodeWindow hwindow hdecode).trans (execScanByte_seek hst)
        case h_2 => exact hscan

/-- In BODY the decoder's turn waits for the source (42_scanner.md R209). -/
theorem fetchDecoder_body_silent {s : State} (hst : s.dec.st = .body) (hsource : s.source = []) :
    s.fetchDecoder = .rest s := by
  unfold State.fetchDecoder
  rw [hst]
  exact if_pos hsource

/-- In BODY the decoder's turn on an answer is the body step, however it was fetched (43_assembler.md R231). -/
theorem perform_fetchDecoder_body {s : State} (hst : s.dec.st = .body) (hsource : s.source ≠ []) :
    s.fetchDecoder.perform = s.bodyStep := by
  unfold State.fetchDecoder
  rw [hst]
  simp only
  rw [if_neg hsource]
  split
  case h_1 w hword => exact (exec_decodeBodyWord hword).trans (execBodyByte_body hst)
  case h_2 => exact execBodyByte_body hst

/-! ### The query port -/

/-- The answer to a query of a header's check: the result where the header is valid (40_codec.md R130). -/
def HdrCheck.answer (r : QueryResult) : HdrCheck → QueryOut
  | .ok => .answer r
  | .invalid bit => .fail (.invalidHeader bit)

theorem exec_hdrValidate (w : Word) (s : State) :
    exec (.hdrValidate w) s = .next (s.answerQuery (HdrCheck.answer .ok (hdrValidate s.params.hdrMatch w))) := by
  show execHdrValidate w s = _
  unfold execHdrValidate
  cases hdrValidate s.params.hdrMatch w <;> rfl

theorem exec_hdrSummary (w : Word) (s : State) :
    exec (.hdrSummary w) s =
      .next (s.answerQuery (HdrCheck.answer (.summary (summary w)) (hdrValidate s.params.hdrMatch w))) := by
  show execHdrSummary w s = _
  unfold execHdrSummary
  cases hdrValidate s.params.hdrMatch w <;> rfl

/-- Every query but the two packet queries answers from its operands and the parameters (10_state.md R54). -/
theorem decodeQuery_cases (sel : BitVec 5) (word fields : Word) :
    (∃ o : Params → QueryOut, ∀ s, exec (decodeQuery sel word fields) s = .next (s.answerQuery (o s.params))) ∨
    decodeQuery sel word fields = .pktAfr ∨ decodeQuery sel word fields = .pktWords := by
  unfold decodeQuery
  split
  case h_1 => exact .inl ⟨fun p => HdrCheck.answer .ok (hdrValidate p.hdrMatch word), exec_hdrValidate word⟩
  case h_4 =>
    exact .inl ⟨fun p => HdrCheck.answer (.summary (summary word)) (hdrValidate p.hdrMatch word),
      exec_hdrSummary word⟩
  case h_19 => exact .inr (.inl rfl)
  case h_20 => exact .inr (.inr rfl)
  all_goals exact .inl ⟨fun _ => _, fun _ => rfl⟩

/-- What PKT_AFR answers: what the packet held gives, or NoPacket (41_derived.md R175). -/
theorem exec_pktAfr_next {s t : State} (h : exec .pktAfr s = .next t) :
    (s.dec.pktValid = true ∧ ∃ o, packetAfr s.dec.pkt = some o ∧ t = s.answerQuery o) ∨
    (s.dec.pktValid = false ∧ t = s.answerQuery (.fail .noPacket)) := by
  change execPktAfr s = .next t at h
  unfold execPktAfr at h
  split at h
  case isTrue hvalid =>
    split at h
    case h_1 o ho => cases h; exact .inl ⟨hvalid, o, ho, rfl⟩
    case h_2 => cases h
  case isFalse hvalid => cases h; exact .inr ⟨by simpa using hvalid, rfl⟩

/-- What PKT_WORDS answers: the words of the packet held, or NoPacket (44_interface.md R280). -/
theorem exec_pktWords_next {s t : State} (h : exec .pktWords s = .next t) :
    (s.dec.pktValid = true ∧ t = s.answerQuery (.answer (.words s.dec.pkt.words))) ∨
    (s.dec.pktValid = false ∧ t = s.answerQuery (.fail .noPacket)) := by
  change execPktWords s = .next t at h
  unfold execPktWords at h
  split at h
  case isTrue hvalid =>
    split at h
    case isTrue => cases h; exact .inl ⟨hvalid, rfl⟩
    case isFalse => cases h
  case isFalse hvalid => cases h; exact .inr ⟨by simpa using hvalid, rfl⟩

/-- A query that answers writes the query port alone (44_interface.md R283). -/
theorem exec_decodeQuery_next {sel : BitVec 5} {word fields : Word} {s t : State}
    (h : exec (decodeQuery sel word fields) s = .next t) : ∃ o, t = s.answerQuery o := by
  rcases decodeQuery_cases sel word fields with ⟨o, hanswer⟩ | hafr | hwords
  · rw [hanswer s] at h
    cases h
    exact ⟨_, rfl⟩
  · rw [hafr] at h
    rcases exec_pktAfr_next h with ⟨-, o, -, ht⟩ | ⟨-, ht⟩
    · exact ⟨o, ht⟩
    · exact ⟨_, ht⟩
  · rw [hwords] at h
    rcases exec_pktWords_next h with ⟨-, ht⟩ | ⟨-, ht⟩ <;> exact ⟨_, ht⟩

/-! ### The command port -/

/-- The commands by their codes (30_encoding.md R110). -/
theorem decodeCommand_cases (cmd : BitVec 4) (arg : Count) :
    (cmd = 0x0#4 ∧ decodeCommand cmd arg = .nop) ∨
    (cmd = 0x1#4 ∧ decodeCommand cmd arg = .decodeNext) ∨
    (cmd = 0x2#4 ∧ decodeCommand cmd arg = .setBudget arg) ∨
    (cmd = 0x3#4 ∧ decodeCommand cmd arg = .clearBudget) ∨
    (cmd = 0xF#4 ∧ decodeCommand cmd arg = .reset) ∨
    (0x4 ≤ cmd.toNat ∧ cmd.toNat ≤ 0xE ∧
      ∀ s, exec (decodeCommand cmd arg) s = .next s.reservedCommand) := by
  obtain ⟨n, hn⟩ := cmd
  match n, hn with
  | 0, _ => exact .inl ⟨rfl, rfl⟩
  | 1, _ => exact .inr (.inl ⟨rfl, rfl⟩)
  | 2, _ => exact .inr (.inr (.inl ⟨rfl, rfl⟩))
  | 3, _ => exact .inr (.inr (.inr (.inl ⟨rfl, rfl⟩)))
  | 15, _ => exact .inr (.inr (.inr (.inr (.inl ⟨rfl, rfl⟩))))
  | 4, _ | 5, _ | 6, _ | 7, _ | 8, _ | 9, _ | 10, _ | 11, _ | 12, _ | 13, _ | 14, _ =>
    exact .inr (.inr (.inr (.inr (.inr ⟨by simp, by simp, fun _ => rfl⟩))))
  | n + 16, hn => omega

/-- A command that needs the block idle faults in ST = 3 alone (10_state.md R31). -/
theorem State.whenIdle_legal {s : State} (f : Decoder → Decoder) (hst : s.dec.st ≠ .illegal) :
    ∃ t, s.whenIdle f = .next t := by
  unfold State.whenIdle
  split
  case h_1 => exact ⟨_, rfl⟩
  case h_2 => exact ⟨_, rfl⟩
  case h_3 => exact ⟨_, rfl⟩
  case h_4 hillegal => exact absurd hillegal hst

theorem State.whenIdle_illegal {s : State} (f : Decoder → Decoder) (hst : s.dec.st = .illegal) :
    s.whenIdle f = .fault .illegalState := by
  unfold State.whenIdle
  rw [hst]

/-! ### The effect of a turn -/

/-- What a turn does when it answers a next state: `TurnEffect u s t` says that the turn `u`, taken in `s`, leaves
`t`. -/
inductive TurnEffect : Turn → State → State → Prop
  /-- NOP (44_interface.md R270). -/
  | nop {arg : Count} {s : State} : TurnEffect (.command 0x0#4 arg) s s
  /-- A command ignored while BUSY = 1 (44_interface.md R276). -/
  | ignored {cmd : BitVec 4} {arg : Count} {s : State} (hst : s.dec.st = .seek ∨ s.dec.st = .body) :
      TurnEffect (.command cmd arg) s s.ignoreCommand
  /-- A reserved code (44_interface.md R275). -/
  | reserved {cmd : BitVec 4} {arg : Count} {s : State} (hlow : 0x4 ≤ cmd.toNat) (hhigh : cmd.toNat ≤ 0xE) :
      TurnEffect (.command cmd arg) s s.reservedCommand
  /-- DECODE_NEXT (44_interface.md R271). -/
  | decodeNext {arg : Count} {s : State} (hst : s.dec.st = .idle) :
      TurnEffect (.command 0x1#4 arg) s (s.mapDec Decoder.startSeek)
  /-- SET_BUDGET (44_interface.md R272). -/
  | setBudget {k : Count} {s : State} (hst : s.dec.st = .idle) :
      TurnEffect (.command 0x2#4 k) s (s.mapDec fun d => { d with budgetEn := true, maxBytes := k })
  /-- CLEAR_BUDGET (44_interface.md R273). -/
  | clearBudget {arg : Count} {s : State} (hst : s.dec.st = .idle) :
      TurnEffect (.command 0x3#4 arg) s (s.mapDec fun d => { d with budgetEn := false })
  /-- RESET (44_interface.md R274). -/
  | reset {arg : Count} {s : State} : TurnEffect (.command 0xF#4 arg) s s.resetDecoder
  /-- The reset input (70_reset_and_hazards.md R340). -/
  | resetInput {s : State} : TurnEffect .resetInput s s.resetDecoder
  /-- A query (44_interface.md R283). -/
  | query {sel : BitVec 5} {word fields : Word} {s : State} (o : QueryOut) :
      TurnEffect (.query sel word fields) s (s.answerQuery o)
  /-- The answer to a withdrawn request (70_reset_and_hazards.md R346). -/
  | lateAnswer {s : State} (hwithdrawn : s.withdrawn ≠ 0) : TurnEffect .lateAnswer s s.discardAnswer
  /-- No step of the decoder is due, or the byte source is silent (44_interface.md R278, 42_scanner.md R209). -/
  | waits {s : State} : TurnEffect .decoder s s
  /-- The budget is spent (42_scanner.md R205). -/
  | timeout {s : State} (hst : s.dec.st = .seek) (hbudget : s.dec.budgetSpent = true) :
      TurnEffect .decoder s { s with dec := s.dec.raise .syncTimeout ⟨s.dec.pos, s.dec.seekCnt⟩ }
  /-- The stream ends in a seek (42_scanner.md R202). -/
  | streamEnded {s : State} {rest : List Answer} (hst : s.dec.st = .seek) (hsource : s.source = .eos :: rest) :
      TurnEffect .decoder s
        { s with source := rest, dec := s.dec.raise .streamEnded ⟨s.dec.pos, s.dec.seekCnt⟩ }
  /-- A byte is taken into the scan window (42_scanner.md R202). -/
  | scanned {s : State} {b : Byte} {rest : List Answer} (hst : s.dec.st = .seek)
      (hbudget : s.dec.budgetSpent = false) (hsource : s.source = .byte b :: rest) :
      TurnEffect .decoder s
        { s with
          source := rest
          dec := Decoder.scanned s.params s.dec.pos b { s.dec with pos := s.dec.pos + 1 } }
  /-- The stream ends in a body (43_assembler.md R231). -/
  | truncated {s : State} {rest : List Answer} (hst : s.dec.st = .body) (hsource : s.source = .eos :: rest) :
      TurnEffect .decoder s
        { s with
          source := rest
          dec := s.dec.raise .truncatedStream ⟨s.dec.hdrOff, s.dec.bcnt.setWidth 32⟩ }
  /-- A byte is taken into the body (43_assembler.md R231). -/
  | bodyTaken {s : State} {b : Byte} {rest : List Answer} {d : Decoder} (hst : s.dec.st = .body)
      (hroom : s.dec.bcnt.toNat < 2 * s.dec.bodyWords) (hsource : s.source = .byte b :: rest)
      (htaken : Decoder.bodyTaken s.params b { s.dec with pos := s.dec.pos + 1 } = some d) :
      TurnEffect .decoder s { s with source := rest, dec := d }

/-- A command that needs the block idle has its effect there, and is ignored while BUSY = 1. -/
theorem whenIdle_effect {cmd : BitVec 4} {arg : Count} {s t : State} {f : Decoder → Decoder}
    (hidle : s.dec.st = .idle → TurnEffect (.command cmd arg) s (s.mapDec f)) (h : s.whenIdle f = .next t) :
    TurnEffect (.command cmd arg) s t := by
  rcases State.whenIdle_next h with ⟨hst, rfl⟩ | ⟨hst, rfl⟩
  · exact hidle hst
  · exact .ignored hst

theorem command_effect {cmd : BitVec 4} {arg : Count} {s t : State}
    (h : exec (decodeCommand cmd arg) s = .next t) : TurnEffect (.command cmd arg) s t := by
  rcases decodeCommand_cases cmd arg with
    ⟨rfl, hi⟩ | ⟨rfl, hi⟩ | ⟨rfl, hi⟩ | ⟨rfl, hi⟩ | ⟨rfl, hi⟩ | ⟨hlow, hhigh, hreserved⟩
  · rw [hi] at h
    cases h
    exact .nop
  · rw [hi] at h
    exact whenIdle_effect .decodeNext h
  · rw [hi] at h
    exact whenIdle_effect .setBudget h
  · rw [hi] at h
    exact whenIdle_effect .clearBudget h
  · rw [hi] at h
    cases h
    exact .reset
  · rw [hreserved s] at h
    cases h
    exact .reserved hlow hhigh

theorem scanStep_effect {s : State} (hst : s.dec.st = .seek) : TurnEffect .decoder s s.scanStep := by
  rcases s.scanStep_cases with
    ⟨hbudget, ht⟩ | ⟨-, -, ht⟩ | ⟨-, rest, hsource, ht⟩ | ⟨hbudget, b, rest, hsource, ht⟩ <;> rw [ht]
  · exact .timeout hst hbudget
  · exact .waits
  · exact .streamEnded hst hsource
  · exact .scanned hst hbudget hsource

theorem bodyStep_effect {s t : State} (hst : s.dec.st = .body) (h : s.bodyStep = .next t) :
    TurnEffect .decoder s t := by
  obtain ⟨hroom, ⟨-, rfl⟩ | ⟨rest, hsource, rfl⟩ | ⟨b, rest, d, hsource, htaken, rfl⟩⟩ := State.bodyStep_next h
  · exact .waits
  · exact .truncated hst hsource
  · exact .bodyTaken hst hroom hsource htaken

theorem decoder_effect {s t : State} (h : s.fetchDecoder.perform = .next t) : TurnEffect .decoder s t := by
  match hst : s.dec.st with
  | .idle =>
    rw [fetchDecoder_idle hst] at h
    cases h
    exact .waits
  | .seek =>
    rw [perform_fetchDecoder_seek hst] at h
    cases h
    exact scanStep_effect hst
  | .body =>
    by_cases hsource : s.source = []
    · rw [fetchDecoder_body_silent hst hsource] at h
      cases h
      exact .waits
    · rw [perform_fetchDecoder_body hst hsource] at h
      exact bodyStep_effect hst h
  | .illegal =>
    rw [fetchDecoder_illegal hst] at h
    cases h

theorem turn_effect {u : Turn} {s t : State} (h : (State.fetchTurn u s).perform = .next t) :
    TurnEffect u s t := by
  cases u with
  | command cmd arg => exact command_effect h
  | query sel word fields =>
    obtain ⟨o, rfl⟩ := exec_decodeQuery_next h
    exact .query o
  | resetInput => cases h; exact .resetInput
  | decoder => exact decoder_effect h
  | lateAnswer =>
    by_cases hwithdrawn : s.withdrawn = 0
    · rw [fetchTurn_lateAnswer_unowed hwithdrawn] at h
      cases h
    · rw [fetchTurn_lateAnswer_owed hwithdrawn] at h
      cases h
      exact .lateAnswer hwithdrawn

/-- A step that answers a next state keeps the state where no turn is to come, and otherwise has the effect of the
first turn. -/
theorem step_next {s t : State} (h : step s = .next t) :
    (s.turns = [] ∧ t = s) ∨ ∃ u ts, s.turns = u :: ts ∧ TurnEffect u { s with turns := ts } t := by
  cases hturns : s.turns with
  | nil =>
    rw [step_nil hturns] at h
    cases h
    exact .inl ⟨rfl, rfl⟩
  | cons u ts =>
    rw [step_cons hturns] at h
    exact .inr ⟨u, ts, rfl, turn_effect h⟩

end Sys2Proof.Machine
end

section
/-! What classification ends in (43_assembler.md R236): a packet that keeps the packet invariants, or a decode's
error. And what the packet invariants give the packet queries. -/

namespace Sys2Proof.Machine

open Sys2Proof

/-- The kinds that may stand before a packet's aux words (43_assembler.md R237). -/
def fronts : List (List Kind) := [[], [.function, .lambda], [.function, .lambda, .battery]]

theorem channelsFrom_replicate_aux (c m : Nat) :
    channelsFrom c (List.replicate m .aux) = (List.range m).map fun i => BitVec.ofNat 8 (c + i) := by
  induction m generalizing c with
  | zero => rfl
  | succ m ih =>
    rw [List.replicate_succ, channelsFrom, ih, List.range_succ_eq_map]
    simp [Function.comp_def, Nat.add_assoc, Nat.add_comm 1]

/-- The aux words are numbered from 1 in arrival order, and the words before them have channel 0. -/
theorem channelsFrom_front {front : List Kind} (hfront : front ∈ fronts) (m : Nat) :
    channelsFrom 1 (front ++ List.replicate m .aux) = List.replicate front.length 0 ++ auxChannels m := by
  have haux : channelsFrom 1 (List.replicate m .aux) = auxChannels m := by
    simp only [channelsFrom_replicate_aux, auxChannels, Nat.add_comm]
  simp only [fronts, List.mem_cons, List.not_mem_nil, or_false] at hfront
  rcases hfront with rfl | rfl | rfl <;> simp [channelsFrom, haux, List.replicate_succ]

/-- A packet assembled from a body of the declared length keeps the packet invariants. -/
theorem packetOf_ok {p : Params} {hdr : Word} {off : Pos} {body : List Word} {front : List Kind}
    (hvalid : hdrValid p.hdrMatch hdr = true) (hlength : body.length = (wordCount hdr).toNat)
    (hfront : front ∈ fronts) (hfits : front.length ≤ body.length) :
    PacketOk p (packetOf hdr off body front) := by
  have hcount : BitVec.ofNat 8 body.length = wordCount hdr := by rw [hlength]; simp
  have hlength' : body.length = (BitVec.ofNat 8 body.length).toNat := by rw [hcount, hlength]
  exact {
    header := hvalid
    count := hcount
    words := hlength'
    kinds := by
      simp only [packetOf, List.length_append, List.length_replicate]
      omega
    order := ⟨front, hfront, _, rfl⟩
    channels := (channelsFrom_front hfront _).symm }

theorem frontKinds_mem (body : List Word) : frontKinds body ∈ fronts := by
  unfold frontKinds
  split
  · split <;> simp [fronts]
  · simp [fronts]

theorem frontKinds_length {body : List Word} (hlength : 2 ≤ body.length) :
    (frontKinds body).length ≤ body.length := by
  unfold frontKinds
  split
  · split <;> simp
  · exact hlength

theorem classify_cases (lmMask hdr : Word) (off : Pos) (body : List Word) :
    (∃ front ∈ fronts, front.length ≤ body.length ∧
      classify lmMask hdr off body = .packet (packetOf hdr off body front)) ∨
    (∃ e info, DecodeErrorCode e.code ∧ classify lmMask hdr off body = .error e info) := by
  cases body with
  | nil => exact .inl ⟨[], by simp [fronts], by simp, rfl⟩
  | cons w0 ws =>
    simp only [classify]
    split
    case isTrue => exact .inr ⟨_, _, by simp [DecodeErrorCode], rfl⟩
    case isFalse =>
      split
      case isTrue =>
        split
        case isTrue => exact .inr ⟨_, _, by simp [DecodeErrorCode], rfl⟩
        case isFalse hlength =>
          exact .inl ⟨_, frontKinds_mem _, frontKinds_length (by omega), rfl⟩
      case isFalse => exact .inl ⟨[], by simp [fronts], by simp, rfl⟩

/-- A packet that starts with a FunctionWord has a word 1, its LambdaWord (43_assembler.md R237). -/
theorem PacketOk.two_le_of_function {p : Params} {P : Packet} (hok : PacketOk p P)
    (hhead : P.kind.head? = some .function) : 2 ≤ P.body.length := by
  obtain ⟨front, hfront, m, hkind⟩ := hok.order
  have hlength : front.length + m = P.body.length := by
    rw [hok.words, ← hok.kinds, hkind]
    simp
  simp only [List.mem_cons, List.not_mem_nil, or_false] at hfront
  rcases hfront with rfl | rfl | rfl
  · cases m <;> simp [hkind, List.replicate_succ] at hhead
  · simp only [List.length_cons] at hlength
    omega
  · simp only [List.length_cons] at hlength
    omega

theorem PacketOk.packetAfr_isSome {p : Params} {P : Packet} (hok : PacketOk p P) :
    ∃ o, packetAfr P = some o := by
  unfold packetAfr
  split
  case isTrue => exact ⟨_, rfl⟩
  case isFalse hfunction =>
    have htwo : 2 ≤ P.body.length :=
      hok.two_le_of_function (by simpa using (not_or.1 hfunction).2)
    match P.body, htwo with
    | w0 :: w1 :: _, _ =>
      simp only
      split <;> exact ⟨_, rfl⟩

end Sys2Proof.Machine
end

section
/-! PROOF of O52, O53 and O54: the machine's invariant holds after reset, every step keeps it, and from a state
with it no step faults but on an answer of the source to no request. -/

namespace Sys2Proof.Machine

open Sys2Proof

/-- In IDLE the invariant is what the result registers and BODYBUF hold. -/
theorem Decoder.Inv.of_idle {p : Params} {d : Decoder} (hst : d.st = .idle)
    (hexclusive : ¬(d.pktValid = true ∧ d.errValid = true))
    (herrors : if d.errValid = true then DecodeErrorCode d.errCode else d.errCode = 0 ∧ d.errInfo = ⟨0, 0⟩)
    (hpacket : d.pktValid = true → PacketOk p d.pkt) (hbuffer : d.bodyBuf.wf = true) : d.Inv p where
  legal := by simp [hst]
  exclusive := hexclusive
  unreadable := by simp [Decoder.busy, hst]
  errors := herrors
  packet := hpacket
  buffer := hbuffer
  budget := by simp [hst]
  unseen := by simp [hst]
  frame := by simp [hst]
  received := by simp [hst]

theorem reset_inv (p : Params) : Decoder.reset.Inv p :=
  .of_idle rfl (by simp [Decoder.reset]) (by simp [Decoder.reset]) (by simp [Decoder.reset]) Memory.nil_wf

/-- Settles O52: the decoder after reset is idle with its result registers and BODYBUF empty. -/
theorem resetKeepsTheInvariant : Obligations.ResetKeepsTheInvariant := reset_inv Params.spec

/-- No result is held (70_reset_and_hazards.md R345): the state of the result registers in every decode. -/
structure Decoder.ResultsClear (d : Decoder) : Prop where
  pktValid : d.pktValid = false
  errValid : d.errValid = false
  errCode : d.errCode = 0
  errInfo : d.errInfo = ⟨0, 0⟩

section Ends

variable {d : Decoder} (hclear : d.ResultsClear) (hbuffer : d.bodyBuf.wf = true) (p : Params)
include hclear hbuffer

theorem Decoder.ResultsClear.raise_inv {e : ErrorKind} (he : DecodeErrorCode e.code) (info : ErrInfo) :
    Decoder.Inv p (d.raise e info) :=
  .of_idle rfl (by simp [hclear.pktValid]) (by simp [he]) (by simp [hclear.pktValid]) hbuffer

theorem Decoder.ResultsClear.emit_inv {P : Packet} (hok : PacketOk p P) : Decoder.Inv p (d.emit P) :=
  .of_idle rfl (by simp [hclear.errValid]) (by simp [hclear.errValid, hclear.errCode, hclear.errInfo])
    (fun _ => hok) hbuffer

/-- A verdict on a body of the length that a valid header declares. -/
theorem Decoder.ResultsClear.deliver_inv {hdr : Word} (hvalid : hdrValid p.hdrMatch hdr = true) (off : Pos)
    {body : List Word} (hlength : body.length = (wordCount hdr).toNat) :
    Decoder.Inv p (d.deliver (classify p.lmMask hdr off body)) := by
  rcases classify_cases p.lmMask hdr off body with ⟨front, hfront, hfits, hv⟩ | ⟨e, info, he, hv⟩ <;> rw [hv]
  · exact hclear.emit_inv hbuffer p (packetOf_ok hvalid hlength hfront hfits)
  · exact hclear.raise_inv hbuffer p he info

end Ends

theorem hdrValid_zero (m : HdrMatch) : hdrValid m 0 = false := by cases m <;> decide

section Kept

variable {p : Params} {d : Decoder} (h : d.Inv p)
include h

theorem Decoder.Inv.resultsClear (hst : d.st = .seek ∨ d.st = .body) : d.ResultsClear := by
  have hbusy : d.busy = true := by rcases hst with hst | hst <;> simp [Decoder.busy, hst]
  obtain ⟨hpkt, herr⟩ := h.unreadable hbusy
  obtain ⟨hcode, hinfo⟩ : d.errCode = 0 ∧ d.errInfo = ⟨0, 0⟩ := by simpa [herr] using h.errors
  exact ⟨hpkt, herr, hcode, hinfo⟩

theorem Decoder.Inv.raise (hst : d.st = .seek ∨ d.st = .body) {e : ErrorKind} (he : DecodeErrorCode e.code)
    (info : ErrInfo) : Decoder.Inv p (d.raise e info) :=
  (h.resultsClear hst).raise_inv h.buffer p he info

/-- The invariant does not speak of `POS`. -/
theorem Decoder.Inv.setPos (pos : Pos) : Decoder.Inv p { d with pos := pos } :=
  ⟨h.legal, h.exclusive, h.unreadable, h.errors, h.packet, h.buffer, h.budget, h.unseen, h.frame, h.received⟩

/-- In IDLE the invariant does not speak of the budget. -/
theorem Decoder.Inv.setBudget (hst : d.st = .idle) (en : Bool) (k : Count) :
    Decoder.Inv p { d with budgetEn := en, maxBytes := k } :=
  .of_idle hst h.exclusive h.errors h.packet h.buffer

theorem Decoder.Inv.startSeek : Decoder.Inv p d.startSeek where
  legal := by simp
  exclusive := by simp
  unreadable := by simp
  errors := by simp
  packet := by simp
  buffer := h.buffer
  budget := by simp
  unseen := fun _ => hdrValid_zero p.hdrMatch
  frame := by simp
  received := by simp

/-- A byte in a seek: the budget was not spent, so it still bounds the count (42_scanner.md R205). -/
theorem Decoder.Inv.scanned (hst : d.st = .seek) (hbudget : d.budgetSpent = false) (pos : Pos) (b : Byte) :
    Decoder.Inv p (d.scanned p pos b) := by
  have hclear := h.resultsClear (.inl hst)
  rcases d.scanned_cases p pos b with ⟨hinvalid, hd⟩ | ⟨hvalid, hzero, hd⟩ | ⟨hvalid, hcount, hd⟩ <;> rw [hd]
  · exact {
      legal := h.legal
      exclusive := h.exclusive
      unreadable := h.unreadable
      errors := h.errors
      packet := h.packet
      buffer := h.buffer
      budget := fun _ hen => by
        have hlt : d.seekCnt.toNat < d.maxBytes.toNat := by
          simpa [Decoder.budgetSpent, show d.budgetEn = true from hen] using hbudget
        show (satIncr d.seekCnt).toNat ≤ d.maxBytes.toNat
        rw [satIncr_toNat]
        omega
      unseen := fun _ => hinvalid
      frame := by simp [hst]
      received := by simp [hst] }
  · have hok : PacketOk p (packetOf (scanWindow d.sr b) (pos - 1) [] []) :=
      packetOf_ok hvalid (by simp [hzero]) (by simp [fronts]) (by simp)
    exact .of_idle rfl (by simp [hclear.errValid]) (by simp [hclear.errValid, hclear.errCode, hclear.errInfo])
      (fun _ => hok) h.buffer
  · have hpos : 0 < (wordCount (scanWindow d.sr b)).toNat :=
      Nat.pos_of_ne_zero fun hz => hcount (BitVec.eq_of_toNat_eq hz)
    exact {
      legal := by simp
      exclusive := h.exclusive
      unreadable := fun _ => ⟨hclear.pktValid, hclear.errValid⟩
      errors := h.errors
      packet := h.packet
      buffer := h.buffer
      budget := by simp
      unseen := by simp
      frame := fun _ => ⟨hvalid, by simpa [Decoder.bodyWords] using hpos⟩
      received := by simp [Decoder.bodyIndex] }

end Kept

/-- A frame has 255 words at most, so `BCNT` does not wrap in it. -/
theorem Decoder.bcnt_succ {d : Decoder} (hroom : d.bcnt.toNat < 2 * d.bodyWords) :
    (d.bcnt + 1).toNat = d.bcnt.toNat + 1 := by
  have hwords := d.bodyWords_le
  rw [BitVec.toNat_add, show BitVec.toNat (1 : BitVec 9) = 1 from rfl]
  omega

section Body

variable {p : Params} {d : Decoder} (h : d.Inv p) (hst : d.st = .body)
include h hst

/-- A frame goes on where the byte counted is not its last and each word now complete has its value. -/
theorem Decoder.Inv.bodyGoesOn {buf : Memory} (byte : Byte) (hmore : d.bcnt.toNat + 1 < 2 * d.bodyWords)
    (hbuffer : buf.wf = true) (hreceived : ∀ i, i < (d.bcnt.toNat + 1) / 2 → (buf.read i).isSome = true) :
    Decoder.Inv p { d with bcnt := d.bcnt + 1, hibyte := byte, bodyBuf := buf } := by
  have hcount := d.bcnt_succ (by omega)
  exact {
    legal := h.legal
    exclusive := h.exclusive
    unreadable := h.unreadable
    errors := h.errors
    packet := h.packet
    buffer := hbuffer
    budget := by simp [hst]
    unseen := by simp [hst]
    frame := fun _ => ⟨(h.frame hst).1, hcount.trans_lt hmore⟩
    received := fun _ i hi => hreceived i (by rw [← hcount]; exact hi) }

theorem Decoder.Inv.bodyIndex_lt : d.bodyIndex < d.bodyWords := by
  have hroom := (h.frame hst).2
  unfold Decoder.bodyIndex
  omega

/-- Storing the word being received keeps the buffer's form. -/
theorem Decoder.Inv.stored_wf (w : Word) : (d.bodyBuf.write d.bodyIndex w).wf = true :=
  Memory.write_wf _ _ _ ((h.bodyIndex_lt hst).trans_le d.bodyWords_le) h.buffer

/-- After the word being received is stored, one more word has its value. -/
theorem Decoder.Inv.stored_received (w : Word) (i : Nat) (hi : i < d.bodyIndex + 1) :
    ((d.bodyBuf.write d.bodyIndex w).read i).isSome = true := by
  by_cases heq : i = d.bodyIndex
  · rw [heq, Memory.read_write_same]
    rfl
  · rw [Memory.read_write_other _ _ _ _ heq]
    exact h.received hst i (by omega)

/-- A byte in a body (43_assembler.md R231): a high byte waits, a low byte stores its word, and the last one ends
the frame on as many words as its header declares. -/
theorem Decoder.Inv.bodyTaken {b : Byte} {d' : Decoder} (htaken : d.bodyTaken p b = some d') :
    Decoder.Inv p d' := by
  obtain ⟨hvalid, hroom⟩ := h.frame hst
  have hreceived := h.received hst
  have hlow := d.lowByteNext_iff
  unfold Decoder.bodyIndex at hreceived
  rcases Decoder.bodyTaken_some htaken with ⟨hhigh, rfl⟩ | ⟨hlast, hmore, rfl⟩ | ⟨ws, hlast, hend, hws, rfl⟩
  · have heven : ¬d.bcnt.toNat % 2 = 1 := by simpa [hhigh] using hlow
    exact h.bodyGoesOn hst b (by omega) h.buffer fun i hi => hreceived i (by omega)
  · have hodd := hlow.1 hlast
    refine h.bodyGoesOn hst d.hibyte (by omega) (h.stored_wf hst _) fun i hi => h.stored_received hst _ i ?_
    unfold Decoder.bodyIndex
    omega
  · have hpacket : (ws ++ [Word.ofBytes d.hibyte b]).length = (wordCount d.hdr).toNat := by
      rw [List.length_append, Decoder.bodyPrefix_length hws]
      show d.bodyWords - 1 + 1 = d.bodyWords
      omega
    have hclear := h.resultsClear (.inr hst)
    refine Decoder.ResultsClear.deliver_inv ?_ (h.stored_wf hst _) p hvalid d.hdrOff hpacket
    exact ⟨hclear.pktValid, hclear.errValid, hclear.errCode, hclear.errInfo⟩

/-- No body step from a state with the invariant reads an entry without a value (10_state.md R38). -/
theorem Decoder.Inv.bodyTaken_isSome (b : Byte) : ∃ d', d.bodyTaken p b = some d' := by
  have hreceived := h.received hst
  unfold Decoder.bodyIndex at hreceived
  simp only [Decoder.bodyTaken]
  split
  case isFalse => exact ⟨_, rfl⟩
  case isTrue =>
    split
    case isFalse => exact ⟨_, rfl⟩
    case isTrue hend =>
      obtain ⟨ws, hws⟩ : ∃ ws, d.bodyPrefix (d.bodyWords - 1) = some ws :=
        Decoder.bodyPrefix_isSome fun i hi => by
          rw [Decoder.bodyWord, if_pos (by omega)]
          exact hreceived i (by omega)
      rw [hws]
      exact ⟨_, rfl⟩

end Body

theorem TurnEffect.keeps_inv {u : Turn} {s t : State} (heffect : TurnEffect u s t) (h : s.Inv) : t.Inv := by
  unfold State.Inv at h ⊢
  cases heffect with
  | nop => exact h
  | ignored => exact h
  | reserved => simpa using h
  | decodeNext => exact h.startSeek
  | setBudget hst => exact h.setBudget hst _ _
  | clearBudget hst => exact h.setBudget hst _ _
  | reset => exact reset_inv _
  | resetInput => exact reset_inv _
  | query => exact h
  | lateAnswer => simpa using h
  | waits => exact h
  | timeout hst => exact h.raise (.inl hst) (by simp [DecodeErrorCode]) _
  | streamEnded hst => exact h.raise (.inl hst) (by simp [DecodeErrorCode]) _
  | scanned hst hbudget => exact (h.setPos (s.dec.pos + 1)).scanned hst hbudget _ _
  | truncated hst => exact h.raise (.inr hst) (by simp [DecodeErrorCode]) _
  | bodyTaken hst _ _ htaken => exact (h.setPos (s.dec.pos + 1)).bodyTaken hst htaken

/-- Settles O53: the effect of each turn keeps the invariant. -/
theorem everyStepKeepsTheInvariant : Obligations.EveryStepKeepsTheInvariant := by
  unfold Obligations.EveryStepKeepsTheInvariant
  intro s t h hstep
  rcases step_next hstep with ⟨-, rfl⟩ | ⟨u, ts, -, heffect⟩
  · exact h
  · exact heffect.keeps_inv h

/-! ### Progress -/

theorem command_answers {s : State} (h : s.Inv) (cmd : BitVec 4) (arg : Count) :
    ∃ t, exec (decodeCommand cmd arg) s = .next t := by
  rcases decodeCommand_cases cmd arg with ⟨-, hi⟩ | ⟨-, hi⟩ | ⟨-, hi⟩ | ⟨-, hi⟩ | ⟨-, hi⟩ | ⟨-, -, hreserved⟩
  · exact ⟨s, by rw [hi]; rfl⟩
  · rw [hi]; exact State.whenIdle_legal _ h.legal
  · rw [hi]; exact State.whenIdle_legal _ h.legal
  · rw [hi]; exact State.whenIdle_legal _ h.legal
  · exact ⟨s.resetDecoder, by rw [hi]; rfl⟩
  · exact ⟨_, hreserved s⟩

theorem exec_pktAfr_answers {s : State} (h : s.Inv) : ∃ t, exec .pktAfr s = .next t := by
  show ∃ t, execPktAfr s = .next t
  unfold execPktAfr
  split
  case isTrue hvalid =>
    obtain ⟨o, ho⟩ := (h.packet hvalid).packetAfr_isSome
    rw [ho]
    exact ⟨_, rfl⟩
  case isFalse => exact ⟨_, rfl⟩

theorem exec_pktWords_answers {s : State} (h : s.Inv) : ∃ t, exec .pktWords s = .next t := by
  show ∃ t, execPktWords s = .next t
  unfold execPktWords
  split
  case isTrue hvalid =>
    rw [if_pos (h.packet hvalid).words]
    exact ⟨_, rfl⟩
  case isFalse => exact ⟨_, rfl⟩

theorem query_answers {s : State} (h : s.Inv) (sel : BitVec 5) (word fields : Word) :
    ∃ t, exec (decodeQuery sel word fields) s = .next t := by
  rcases decodeQuery_cases sel word fields with ⟨o, hanswer⟩ | hafr | hwords
  · exact ⟨_, hanswer s⟩
  · rw [hafr]; exact exec_pktAfr_answers h
  · rw [hwords]; exact exec_pktWords_answers h

theorem bodyStep_answers {s : State} (h : s.Inv) (hst : s.dec.st = .body) : ∃ t, s.bodyStep = .next t := by
  unfold State.bodyStep
  rw [if_pos (h.frame hst).2]
  rcases s.readByte_cases with ⟨-, hread⟩ | ⟨rest, -, hread⟩ | ⟨b, rest, -, hread⟩ <;> rw [hread]
  · exact ⟨_, rfl⟩
  · exact ⟨_, rfl⟩
  · obtain ⟨d, hd⟩ := (h.setPos (s.dec.pos + 1)).bodyTaken_isSome hst b
    simp only
    rw [hd]
    exact ⟨_, rfl⟩

theorem decoder_answers {s : State} (h : s.Inv) : ∃ t, s.fetchDecoder.perform = .next t := by
  match hst : s.dec.st with
  | .idle => exact ⟨s, by rw [fetchDecoder_idle hst]; rfl⟩
  | .seek => exact ⟨_, perform_fetchDecoder_seek hst⟩
  | .body =>
    by_cases hsource : s.source = []
    · exact ⟨s, by rw [fetchDecoder_body_silent hst hsource]; rfl⟩
    · rw [perform_fetchDecoder_body hst hsource]
      exact bodyStep_answers h hst
  | .illegal => exact absurd hst h.legal

theorem turn_answers {s : State} (h : s.Inv) (u : Turn) :
    (∃ t, (State.fetchTurn u s).perform = .next t) ∨
    ((State.fetchTurn u s).perform = .fault .answerWithoutRequest ∧ s.withdrawn = 0 ∧ u = .lateAnswer) := by
  cases u with
  | command cmd arg => exact .inl (command_answers h cmd arg)
  | query sel word fields => exact .inl (query_answers h sel word fields)
  | resetInput => exact .inl ⟨_, rfl⟩
  | decoder => exact .inl (decoder_answers h)
  | lateAnswer =>
    by_cases hwithdrawn : s.withdrawn = 0
    · exact .inr ⟨by rw [fetchTurn_lateAnswer_unowed hwithdrawn]; rfl, hwithdrawn, rfl⟩
    · exact .inl ⟨_, by rw [fetchTurn_lateAnswer_owed hwithdrawn]; rfl⟩

/-- Settles O54: each turn answers under the invariant, but a late answer that no request waits for. -/
theorem noStepFaultsUnderTheInvariant : Obligations.NoStepFaultsUnderTheInvariant := by
  unfold Obligations.NoStepFaultsUnderTheInvariant
  intro s h
  cases hturns : s.turns with
  | nil => exact .inl ⟨s, step_nil hturns⟩
  | cons u ts =>
    rw [step_cons hturns]
    have h' : State.Inv { s with turns := ts } := h
    rcases turn_answers h' u with hnext | ⟨hfault, hwithdrawn, rfl⟩
    · exact .inl hnext
    · exact .inr ⟨hfault, hwithdrawn, ts, rfl⟩

end Sys2Proof.Machine
end

section
/-! PROOF of O1, O10, O12, O56 and O60: the values after reset, the illegal value of `ST`, and what queries,
decoder turns and commands read and write of the state. -/

namespace Sys2Proof.Machine

open Sys2Proof

/-- Settles O1: `Decoder.reset` holds the values of R60, and the empty BODYBUF has nothing to read. -/
theorem resetHoldsTheSpecValues : Obligations.ResetHoldsTheSpecValues where
  st := rfl
  sr := rfl
  seekCnt := rfl
  pos := rfl
  hdr := rfl
  hdrOff := rfl
  bcnt := rfl
  hibyte := rfl
  bodyBuf := fun i => ⟨Memory.read_nil i, ite_self none⟩
  budgetEn := rfl
  maxBytes := rfl
  pktValid := rfl
  pkt := rfl
  errValid := rfl
  errCode := rfl
  errInfo := rfl

/-- Settles O10: each operation that reads `ST` has its fault in the case of the value 3. -/
theorem illegalStateValueFaults : Obligations.IllegalStateValueFaults := by
  unfold Obligations.IllegalStateValueFaults
  intro s hst
  refine ⟨State.whenIdle_illegal _ hst, fun _ => State.whenIdle_illegal _ hst, State.whenIdle_illegal _ hst,
    ?scanByte, ?bodyByte, fun _ _ _ => if_pos hst, if_pos hst, ?turn⟩
  case scanByte =>
    show execScanByte s = _
    unfold execScanByte
    rw [hst]
  case bodyByte =>
    show execBodyByte s = _
    unfold execBodyByte
    rw [hst]
  case turn =>
    intro ts hturns
    have hfetch := fetchDecoder_illegal (s := { s with turns := ts }) hst
    rw [step_cons hturns]
    show (State.fetchDecoder _).perform = _
    rw [hfetch]
    rfl

/-- Settles O12: a query answers from the parameters, or from the packet held, or NoPacket. -/
theorem queriesReadOnlyThePacket : Obligations.QueriesReadOnlyThePacket := by
  unfold Obligations.QueriesReadOnlyThePacket
  rintro i ⟨sel, word, fields, rfl⟩ s s' t t' hparams hvalid hpkt h h'
  rcases decodeQuery_cases sel word fields with ⟨o, hanswer⟩ | hafr | hwords
  · rw [hanswer] at h h'
    cases h
    cases h'
    simp [hparams]
  · rw [hafr] at h h'
    rcases exec_pktAfr_next h with ⟨hv, o, ho, rfl⟩ | ⟨hv, rfl⟩ <;>
      rcases exec_pktAfr_next h' with ⟨hv', o', ho', rfl⟩ | ⟨hv', rfl⟩
    · rw [hpkt hv, ho'] at ho
      cases ho
      rfl
    · simp [hv, hv'] at hvalid
    · simp [hv, hv'] at hvalid
    · rfl
  · rw [hwords] at h h'
    rcases exec_pktWords_next h with ⟨hv, rfl⟩ | ⟨hv, rfl⟩ <;>
      rcases exec_pktWords_next h' with ⟨hv', rfl⟩ | ⟨hv', rfl⟩
    · simp [hpkt hv]
    · simp [hv, hv'] at hvalid
    · simp [hv, hv'] at hvalid
    · rfl

/-! ### `POS` and the configuration under the two steps that take a byte -/

section TakesByte

variable {par : Params} {b : Byte} {d : Decoder}

/-- A byte taken into the window leaves `POS`, which the read has counted, and the configuration. -/
theorem Decoder.scanned_frame (p : Pos) :
    (d.scanned par p b).pos = d.pos ∧ (d.scanned par p b).budgetEn = d.budgetEn ∧
      (d.scanned par p b).maxBytes = d.maxBytes := by
  rcases d.scanned_cases par p b with ⟨-, hd⟩ | ⟨-, -, hd⟩ | ⟨-, -, hd⟩ <;> simp [hd]

/-- A byte taken into the body leaves `POS`, which the read has counted, and the configuration. -/
theorem Decoder.bodyTaken_frame {d' : Decoder} (h : d.bodyTaken par b = some d') :
    d'.pos = d.pos ∧ d'.budgetEn = d.budgetEn ∧ d'.maxBytes = d.maxBytes := by
  rcases Decoder.bodyTaken_some h with ⟨-, rfl⟩ | ⟨-, -, rfl⟩ | ⟨ws, -, -, -, rfl⟩ <;> simp

end TakesByte

/-- Settles O56: of the decoder's turns those that take a byte count it, and the others leave `POS`. -/
theorem posCountsTheBytesConsumed : Obligations.PosCountsTheBytesConsumed := by
  unfold Obligations.PosCountsTheBytesConsumed
  intro s t ts hturns hstep
  rw [step_cons hturns] at hstep
  cases turn_effect hstep with
  | waits => exact .inr (.inr ⟨rfl, rfl⟩)
  | timeout => exact .inr (.inr ⟨rfl, rfl⟩)
  | streamEnded _ hsource => exact .inr (.inl ⟨hsource, rfl⟩)
  | truncated _ hsource => exact .inr (.inl ⟨hsource, rfl⟩)
  | scanned _ _ hsource => exact .inl ⟨_, hsource, (Decoder.scanned_frame _).1⟩
  | bodyTaken _ _ hsource htaken => exact .inl ⟨_, hsource, (Decoder.bodyTaken_frame htaken).1⟩

theorem TurnEffect.params {u : Turn} {s t : State} (heffect : TurnEffect u s t) : t.params = s.params := by
  cases heffect <;> simp

/-- The configuration after a turn: as it was, or as the one command or reset that writes it says. -/
theorem TurnEffect.configuration {u : Turn} {s t : State} (heffect : TurnEffect u s t) :
    (t.dec.budgetEn = s.dec.budgetEn ∧ t.dec.maxBytes = s.dec.maxBytes) ∨
    (∃ k, u = .command 0x2#4 k ∧ t.dec.budgetEn = true ∧ t.dec.maxBytes = k) ∨
    (∃ k, u = .command 0x3#4 k ∧ t.dec.budgetEn = false ∧ t.dec.maxBytes = s.dec.maxBytes) ∨
    (u = .resetInput ∨ ∃ k, u = .command 0xF#4 k) ∧ t.dec.budgetEn = false ∧ t.dec.maxBytes = 0 := by
  cases heffect with
  | setBudget => exact .inr (.inl ⟨_, rfl, rfl, rfl⟩)
  | clearBudget => exact .inr (.inr (.inl ⟨_, rfl, rfl, rfl⟩))
  | reset => exact .inr (.inr (.inr ⟨.inr ⟨_, rfl⟩, rfl, rfl⟩))
  | resetInput => exact .inr (.inr (.inr ⟨.inl rfl, rfl, rfl⟩))
  | scanned => exact .inl (Decoder.scanned_frame _).2
  | bodyTaken _ _ _ htaken => exact .inl (Decoder.bodyTaken_frame htaken).2
  | _ => exact .inl (by simp)

/-- Settles O60: the effect of the step's turn says who writes the configuration. -/
theorem configurationIsWrittenOnlyByCommands : Obligations.ConfigurationIsWrittenOnlyByCommands := by
  unfold Obligations.ConfigurationIsWrittenOnlyByCommands
  intro s t hstep
  rcases step_next hstep with ⟨-, rfl⟩ | ⟨u, ts, hturns, heffect⟩
  · exact ⟨rfl, .inl ⟨rfl, rfl⟩⟩
  · refine ⟨heffect.params, ?_⟩
    rw [hturns]
    rcases heffect.configuration with hkept | ⟨k, rfl, hset⟩ | ⟨k, rfl, hclear⟩ | ⟨rfl | ⟨k, rfl⟩, hreset⟩
    · exact .inl hkept
    · exact .inr (.inl ⟨k, ts, rfl, hset⟩)
    · exact .inr (.inr (.inl ⟨k, ts, rfl, hclear⟩))
    · exact .inr (.inr (.inr ⟨.inl ⟨ts, rfl⟩, hreset⟩))
    · exact .inr (.inr (.inr ⟨.inr ⟨k, ts, rfl⟩, hreset⟩))

end Sys2Proof.Machine
end

section
/-! PROOF of O16, O44, O50 and O51: the decoder reads every encoding back, the word count of every word, and the
class of a body word at its place is the kind that classification records (30_encoding.md R92, R100). -/

namespace Sys2Proof.Laws.RoundTrip

open Sys2Proof

/-- The round trips of all operations together; the cases are the constructors of `Instr` in their order. -/
theorem decode_encode (i : Instr) : Statement i := by
  cases i
  exacts [header _, lm1Word0 _, functionWord _, lambdaWord _, batteryWord _, auxWord _,
    nop, decodeNext, setBudget _, clearBudget, reset,
    reservedCmd4, reservedCmd5, reservedCmd6, reservedCmd7, reservedCmd8, reservedCmd9,
    reservedCmdA, reservedCmdB, reservedCmdC, reservedCmdD, reservedCmdE,
    hdrValidate _, hdrDecode _, hdrEncode _, hdrSummary _, wordCount _, funcDecode _, funcEncode _,
    lambdaDecode _, lambdaEncode _, battDecode _, battEncode _, auxDecode _, auxEncode _,
    auxVolts _, auxPercent _, auxRpm _, afValue _, afUnits _, pktAfr, pktWords,
    reservedQ14, reservedQ15, reservedQ16, reservedQ17, reservedQ18, reservedQ19,
    reservedQ1A, reservedQ1B, reservedQ1C, reservedQ1D, reservedQ1E, reservedQ1F,
    scanByte, bodyByte, classify _ _ _]

end Sys2Proof.Laws.RoundTrip

namespace Sys2Proof.Machine

open Sys2Proof

/-! ### Decode and encode -/

/-- Only the internal steps have no encoding. -/
theorem internal_of_encode_none {i : Instr} (h : encode i = none) :
    i = .scanByte ∨ i = .bodyByte ∨ ∃ hdr off body, i = .classify hdr off body := by
  cases i with
  | scanByte => exact .inl rfl
  | bodyByte => exact .inr (.inl rfl)
  | classify hdr off body => exact .inr (.inr ⟨hdr, off, body, rfl⟩)
  | _ => cases h

theorem wordBytes_injective : Function.Injective wordBytes := by
  intro v w h
  obtain ⟨hhi, hlo⟩ : v.hi = w.hi ∧ v.lo = w.lo := by simpa [wordBytes] using h
  rw [← Word.ofBytes_hi_lo v, hhi, hlo, Word.ofBytes_hi_lo]

/-- Whatever its class, a body word is encoded in its own two bytes. -/
theorem encode_decodeBodyWord (p : Params) (pl : Place) (w : Word) :
    (encode (decodeBodyWord p pl w)).map Prod.snd = some (wordBytes w) := by
  unfold decodeBodyWord
  split <;> rfl

theorem decodeBodyWord_injective (p : Params) (pl : Place) : Function.Injective (decodeBodyWord p pl) := by
  intro v w h
  have hbytes : some (wordBytes v) = some (wordBytes w) := by
    rw [← encode_decodeBodyWord p pl v, h, encode_decodeBodyWord]
  exact wordBytes_injective (Option.some.inj hbytes)

/-- Settles O51, from the round trip of each operation; the bytes that encode a body word determine it. -/
theorem decodeInvertsEncode : Obligations.DecodeInvertsEncode := by
  unfold Obligations.DecodeInvertsEncode
  exact ⟨fun p i => Laws.RoundTrip.decode_encode i p, fun _ => internal_of_encode_none,
    fun p pl _ _ h => decodeBodyWord_injective p pl h⟩

/-- Settles O50: each code and word is decoded by evaluation. -/
theorem specEncodingsDecode : Obligations.SpecEncodingsDecode := by
  unfold Obligations.SpecEncodingsDecode
  exact ⟨rfl, rfl, rfl, rfl, rfl, rfl, rfl, rfl, rfl, rfl, rfl, rfl, rfl, rfl, rfl⟩

/-! ### The word count -/

/-- `WORD_COUNT` as arithmetic on the word's value (30_encoding.md R92). -/
theorem wordCount_toNat (w : Word) :
    (wordCount w).toNat = w.toNat / 2 ^ 8 % 2 * 2 ^ 7 + w.toNat % 2 ^ 7 := by
  have hlow : (w.extractLsb' 0 7).toNat < 2 ^ 7 := BitVec.isLt _
  rw [wordCount, BitVec.toNat_append, ← Nat.shiftLeft_add_eq_or_of_lt hlow]
  simp [BitVec.extractLsb'_toNat, Nat.shiftRight_eq_div_pow, Nat.shiftLeft_eq]

/-- Settles O16: the query answers `wordCount`, whose value is the two fields'. -/
theorem wordCountReadsEveryWord : Obligations.WordCountReadsEveryWord := by
  unfold Obligations.WordCountReadsEveryWord
  exact fun s w => ⟨wordCount w, rfl, wordCount_toNat w⟩

/-! ### Word classes and kinds -/

/-- The kind that a packet records for a word: that of the front, or after the front aux. -/
theorem packetOf_kind {hdr : Word} {off : Pos} {body : List Word} (front : List Kind) {j : Nat}
    (hj : j < body.length) : (packetOf hdr off body front).kind[j]? = some (front[j]?.getD .aux) := by
  simp only [packetOf]
  by_cases hfront : j < front.length
  · simp [List.getElem?_append_left, hfront]
  · rw [List.getElem?_append_right (by omega), List.getElem?_eq_none (l := front) (by omega),
      List.getElem?_replicate_of_lt (by omega), Option.getD_none]

/-- In a body that starts with neither marker every word is an aux word (43_assembler.md R236). -/
theorem wordClass_unmarked {lm w0 : Word} {rest : List Word} (hlm : hasLmMarker lm w0 = false)
    (hfunction : hasFunctionMarker w0 = false) {j : Nat} {w : Word} (hw : (w0 :: rest)[j]? = some w) :
    wordClass lm ⟨j, false⟩ w = .aux := by
  cases j with
  | zero => cases hw; simp [wordClass, hlm, hfunction]
  | succ j => simp [wordClass]

theorem frontKinds_starts (body : List Word) : ∃ more, frontKinds body = .function :: .lambda :: more := by
  unfold frontKinds
  split
  · split <;> exact ⟨_, rfl⟩
  · exact ⟨_, rfl⟩

/-- In a body that starts with a FunctionWord and a word 1 the class of each word is its kind (43_assembler.md
R236): only the word at index 2 is tested, for a divider. -/
theorem wordClass_function {lm w0 w1 : Word} {rest : List Word} (hlm : hasLmMarker lm w0 = false)
    (hfunction : hasFunctionMarker w0 = true) {j : Nat} {w : Word} (hw : (w0 :: w1 :: rest)[j]? = some w) :
    wordClass lm ⟨j, true⟩ w = classOfKind ((frontKinds (w0 :: w1 :: rest))[j]?.getD .aux) := by
  obtain ⟨more, hfront⟩ := frontKinds_starts (w0 :: w1 :: rest)
  match j, rest with
  | 0, _ => cases hw; simp [hfront, wordClass, hlm, hfunction, classOfKind]
  | 1, _ => simp [hfront, wordClass, classOfKind]
  | 2, _ :: _ => cases hw; cases hdivider : hasDivider w <;> simp [frontKinds, wordClass, hdivider, classOfKind]
  | j + 3, w2 :: _ => cases hdivider : hasDivider w2 <;> simp [frontKinds, wordClass, hdivider, classOfKind]

section Classify

variable {lm w0 : Word} (hdr : Word) (off : Pos)

theorem classify_lm1 (rest : List Word) (hlm : hasLmMarker lm w0 = true) :
    classify lm hdr off (w0 :: rest) = .error .unsupportedVariant ⟨off, w0.setWidth 32⟩ := by
  simp [classify, hlm]

theorem classify_unmarked (rest : List Word) (hlm : hasLmMarker lm w0 = false)
    (hfunction : hasFunctionMarker w0 = false) :
    classify lm hdr off (w0 :: rest) = .packet (packetOf hdr off (w0 :: rest) []) := by
  simp [classify, hlm, hfunction]

theorem classify_function_alone (hlm : hasLmMarker lm w0 = false) (hfunction : hasFunctionMarker w0 = true) :
    classify lm hdr off [w0] = .error .truncatedStream ⟨off, 2⟩ := by
  simp [classify, hlm, hfunction]

theorem classify_function (w1 : Word) (rest : List Word) (hlm : hasLmMarker lm w0 = false)
    (hfunction : hasFunctionMarker w0 = true) :
    classify lm hdr off (w0 :: w1 :: rest) =
      .packet (packetOf hdr off (w0 :: w1 :: rest) (frontKinds (w0 :: w1 :: rest))) := by
  simp [classify, hlm, hfunction]

end Classify

/-- The class of each word of an accepted body is the kind recorded for it, along the cases of the pass. -/
theorem wordClass_eq_classOfKind {lm hdr : Word} {off : Pos} {body : List Word} {P : Packet}
    (hpacket : classify lm hdr off body = .packet P) {j : Nat} {w : Word} (hw : body[j]? = some w) :
    ∃ k, P.kind[j]? = some k ∧ wordClass lm ⟨j, startsWithFunction lm body⟩ w = classOfKind k := by
  have hj : j < body.length := (List.getElem?_eq_some_iff.1 hw).1
  match body with
  | [] => cases hw
  | w0 :: rest =>
    cases hlm : hasLmMarker lm w0 with
    | true => rw [classify_lm1 hdr off rest hlm] at hpacket; cases hpacket
    | false =>
      cases hfunction : hasFunctionMarker w0 with
      | false =>
        rw [classify_unmarked hdr off rest hlm hfunction] at hpacket
        cases hpacket
        have hstart : startsWithFunction lm (w0 :: rest) = false := by
          simp [startsWithFunction, isFunctionWord0, hfunction]
        exact ⟨_, packetOf_kind [] hj, hstart ▸ wordClass_unmarked hlm hfunction hw⟩
      | true =>
        match rest with
        | [] => rw [classify_function_alone hdr off hlm hfunction] at hpacket; cases hpacket
        | w1 :: rest =>
          rw [classify_function hdr off w1 rest hlm hfunction] at hpacket
          cases hpacket
          have hstart : startsWithFunction lm (w0 :: w1 :: rest) = true := by
            simp [startsWithFunction, isFunctionWord0, hlm, hfunction]
          exact ⟨_, packetOf_kind _ hj, hstart ▸ wordClass_function hlm hfunction hw⟩

/-- Only a word 0 with the LM-1 marker has the LM-1 class (30_encoding.md R100). -/
theorem hasLmMarker_of_wordClass {lm w : Word} {pl : Place} (h : wordClass lm pl w = .lm1) :
    hasLmMarker lm w = true := by
  by_contra hlm
  unfold wordClass at h
  split_ifs at h

/-- Settles O44: an accepted body by `wordClass_eq_classOfKind`, and a word 0 of the LM-1 class carries the marker
that classification tests first. -/
theorem positionalClassesAreTheKinds : Obligations.PositionalClassesAreTheKinds := by
  unfold Obligations.PositionalClassesAreTheKinds
  refine fun lm hdr off body => ⟨fun P hpacket j w hw => wordClass_eq_classOfKind hpacket hw, ?_⟩
  rintro w0 rest rfl hclass
  exact classify_lm1 hdr off rest (hasLmMarker_of_wordClass hclass)

end Sys2Proof.Machine
end

section
/-! PROOF of O48 and O49: a step runs the operation that the next turn's bits decode to, and so a placed word of the
opcode table is the operation that runs. -/

namespace Sys2Proof.Machine

open Sys2Proof

/-! ### What the next answer completes -/

section NextAnswer

variable {s : State} {b : Byte} {rest : List Answer}

theorem pendingWindow_byte (hsource : s.source = .byte b :: rest) :
    s.pendingWindow = some (scanWindow s.dec.sr b) := by
  simp [State.pendingWindow, State.nextByte, hsource]

theorem pendingWindow_eos (hsource : s.source = .eos :: rest) : s.pendingWindow = none := by
  simp [State.pendingWindow, State.nextByte, hsource]

theorem pendingBodyWord_low (hsource : s.source = .byte b :: rest) (hbcnt : s.dec.bcnt.toNat % 2 = 1) :
    s.pendingBodyWord = some (Word.ofBytes s.dec.hibyte b) := by
  simp [State.pendingBodyWord, State.nextByte, hsource, (Decoder.lowByteNext_iff _).2 hbcnt]

theorem pendingBodyWord_high (hbcnt : s.dec.bcnt.toNat % 2 = 0) : s.pendingBodyWord = none := by
  have hhigh : ¬ s.dec.lowByteNext = true := by rw [Decoder.lowByteNext_iff]; omega
  exact if_neg hhigh

theorem pendingBodyWord_eos (hsource : s.source = .eos :: rest) : s.pendingBodyWord = none := by
  simp [State.pendingBodyWord, State.nextByte, hsource]

end NextAnswer

/-! ### The operation that the decoder's turn runs -/

section DecoderTurn

variable {s : State} {a : Answer} {rest : List Answer}

theorem fetchDecoder_budgetSpent (hst : s.dec.st = .seek) (hbudget : s.dec.budgetSpent = true) :
    s.fetchDecoder = .run .scanByte s := by
  simp [State.fetchDecoder, hst, hbudget]

theorem fetchDecoder_header (hst : s.dec.st = .seek) (hbudget : s.dec.budgetSpent = false)
    (hsource : s.source = a :: rest) {w : Word} (hwindow : s.pendingWindow = some w) {i : Instr}
    (hdecode : decodeWindow s.params w = .ok i) : s.fetchDecoder = .run i s := by
  simp [State.fetchDecoder, hst, hbudget, hsource, hwindow, hdecode]

theorem fetchDecoder_noHeader (hst : s.dec.st = .seek) (hbudget : s.dec.budgetSpent = false)
    (hsource : s.source = a :: rest) {w : Word} (hwindow : s.pendingWindow = some w) {e : DecodeError}
    (hdecode : decodeWindow s.params w = .error e) : s.fetchDecoder = .run .scanByte s := by
  simp [State.fetchDecoder, hst, hbudget, hsource, hwindow, hdecode]

theorem fetchDecoder_noWindow (hst : s.dec.st = .seek) (hbudget : s.dec.budgetSpent = false)
    (hsource : s.source = a :: rest) (hwindow : s.pendingWindow = none) :
    s.fetchDecoder = .run .scanByte s := by
  simp [State.fetchDecoder, hst, hbudget, hsource, hwindow]

theorem fetchDecoder_bodyWord (hst : s.dec.st = .body) (hsource : s.source = a :: rest) {w : Word}
    (hword : s.pendingBodyWord = some w) :
    s.fetchDecoder = .run (decodeBodyWord s.params s.bodyPlace w) s := by
  simp [State.fetchDecoder, hst, hsource, hword]

theorem fetchDecoder_noBodyWord (hst : s.dec.st = .body) (hsource : s.source = a :: rest)
    (hword : s.pendingBodyWord = none) : s.fetchDecoder = .run .bodyByte s := by
  simp [State.fetchDecoder, hst, hsource, hword]

end DecoderTurn

/-- A step on the decoder's turn runs the operation that this turn fetches. -/
theorem step_decoder_run {s s' : State} {ts : List Turn} {i : Instr} (hturns : s.turns = .decoder :: ts)
    (hfetch : State.fetchDecoder { s with turns := ts } = .run i s') : step s = exec i s' := by
  rw [step_cons hturns]
  exact congrArg Fetched.perform hfetch

/-- Settles O48, by the operation fetched on each turn. -/
theorem stepRunsTheDecodedOperation : Obligations.StepRunsTheDecodedOperation := by
  unfold Obligations.StepRunsTheDecodedOperation
  refine fun s => ⟨step_nil, fun ts =>
    ⟨fun _ _ => step_cons, fun _ _ _ => step_cons, step_cons, fun hturns => ?_⟩⟩
  let t : State := { s with turns := ts }
  have hrun {i : Instr} : t.fetchDecoder = .run i t → step s = exec i t := step_decoder_run hturns
  refine ⟨fun hst => ?_, fun hst hbudget => hrun (fetchDecoder_budgetSpent hst hbudget),
    fun hst hbudget a rest hsource => ⟨?_, ?_, ?_⟩, fun hst a rest hsource => ⟨?_, ?_, ?_⟩⟩
  · rw [step_cons hturns]
    exact congrArg Fetched.perform (fetchDecoder_idle (s := t) hst)
  · rintro b i rfl hdecode
    exact hrun (fetchDecoder_header (s := t) hst hbudget hsource (pendingWindow_byte hsource) hdecode)
  · rintro b e rfl hdecode
    exact hrun (fetchDecoder_noHeader (s := t) hst hbudget hsource (pendingWindow_byte hsource) hdecode)
  · rintro rfl
    exact hrun (fetchDecoder_noWindow (s := t) hst hbudget hsource (pendingWindow_eos hsource))
  · rintro b rfl hbcnt
    exact hrun (fetchDecoder_bodyWord (s := t) hst hsource (pendingBodyWord_low hsource hbcnt))
  · rintro b rfl hbcnt
    exact hrun (fetchDecoder_noBodyWord (s := t) hst hsource (pendingBodyWord_high hbcnt))
  · rintro rfl
    exact hrun (fetchDecoder_noBodyWord (s := t) hst hsource (pendingBodyWord_eos hsource))

/-! ### The words of the opcode table -/

/-- The places of the body that a table word may be put at (log 12). -/
def tablePlaces : List Place := [⟨0, false⟩, ⟨2, true⟩, ⟨3, true⟩]

theorem tablePort_code {nbits : Nat} (w : Nat) (hcode : nbits < 16) :
    tablePort nbits w = .command ∨ tablePort nbits w = .query := by
  simp only [tablePort, if_pos hcode]
  split
  · exact .inl rfl
  · exact .inr rfl

theorem tablePort_wire {nbits : Nat} (w : Nat) (hwire : ¬ nbits < 16) :
    tablePort nbits w = .window ∨ ∃ pl ∈ tablePlaces, tablePort nbits w = .body pl := by
  simp only [tablePort, if_neg hwire]
  split
  · exact .inl rfl
  · refine .inr ?_
    split
    · exact ⟨_, by decide, rfl⟩
    · split
      · exact ⟨⟨2, true⟩, by decide, rfl⟩
      · exact ⟨⟨3, true⟩, by decide, rfl⟩

/-- A code is read as the command of its low four bits, its operand bytes zero. -/
theorem decode_command_zeros {p : Params} {b : Byte} {i : Instr} {rest : List Byte}
    (h : decode p .command [b, 0, 0, 0, 0] = .ok (i, rest)) : i = decodeCommand (b.extractLsb' 0 4) 0 := by
  simp only [decode, decodeCommandBytes] at h
  split at h
  case isTrue => cases h
  case isFalse =>
    split at h
    case isTrue hb => cases h; rw [hb]; rfl
    case isFalse => cases h; rfl

/-- A code is read as the query of its low five bits, its operand bytes zero. -/
theorem decode_query_zeros {p : Params} {b : Byte} {i : Instr} {rest : List Byte}
    (h : decode p .query [b, 0, 0, 0, 0] = .ok (i, rest)) : i = decodeQuery (b.extractLsb' 0 5) 0 0 := by
  simp only [decode, decodeQueryBytes] at h
  split at h
  case isTrue => cases h
  case isFalse =>
    split at h
    case isTrue => cases h; rfl
    case isFalse => cases h; rfl

theorem extractLsb'_ofNat_byte (w : Nat) {k : Nat} (hk : k ≤ 8) :
    (BitVec.ofNat 8 w).extractLsb' 0 k = BitVec.ofNat k w := by
  apply BitVec.eq_of_toNat_eq
  simp [Nat.mod_mod_of_dvd w (Nat.pow_dvd_pow 2 hk)]

theorem decodeTableWord_some {nbits w : Nat} {i : Instr} (h : decodeTableWord nbits w = some i) :
    ∃ rest, decode Params.spec (tablePort nbits w) (tableBytes nbits w) = .ok (i, rest) := by
  unfold decodeTableWord at h
  split at h
  case h_1 j rest hdecode => cases h; exact ⟨rest, hdecode⟩
  case h_2 => cases h

theorem takeWord_wordBytes_nil (w : Word) : takeWord (wordBytes w) = .ok (w, []) := takeWord_wordBytes w []

theorem decode_window_wordBytes {p : Params} {x : Word} {i : Instr} {rest : List Byte}
    (h : decode p .window (wordBytes x) = .ok (i, rest)) : decodeWindow p x = .ok i := by
  simp only [decode, takeWord_wordBytes_nil] at h
  split at h
  case h_1 hdecode => cases h; exact hdecode
  case h_2 => cases h

theorem decode_body_wordBytes {p : Params} {pl : Place} {x : Word} {i : Instr} {rest : List Byte}
    (h : decode p (.body pl) (wordBytes x) = .ok (i, rest)) : i = decodeBodyWord p pl x := by
  simp only [decode, takeWord_wordBytes_nil] at h
  cases h
  rfl

/-! ### A step on a placed word -/

/-- The scan window of a word's two bytes is the word (42_scanner.md R202). -/
theorem scanWindow_hi_lo (x : Word) : scanWindow (x.hi.setWidth 16) x.lo = x := by
  have hhi : Word.lo (x.hi.setWidth 16) = x.hi := by
    apply BitVec.eq_of_toNat_eq
    simp [Word.lo, x.hi.isLt]
  rw [scanWindow, hhi, Word.ofBytes_hi_lo]

theorem step_placeOnPort_command (s : State) (w : Nat) :
    step (s.placeOnPort .command w) =
      exec (decodeCommand (BitVec.ofNat 4 w) 0) { s.placeOnPort .command w with turns := s.turns } :=
  step_cons (s := s.placeOnPort .command w) (u := .command (BitVec.ofNat 4 w) 0) rfl

theorem step_placeOnPort_query (s : State) (w : Nat) :
    step (s.placeOnPort .query w) =
      exec (decodeQuery (BitVec.ofNat 5 w) 0 0) { s.placeOnPort .query w with turns := s.turns } :=
  step_cons (s := s.placeOnPort .query w) (u := .query (BitVec.ofNat 5 w) 0 0) rfl

theorem step_placeOnPort_window {s : State} {w : Nat} {i : Instr}
    (hdecode : decodeWindow s.params (BitVec.ofNat 16 w) = .ok i) :
    step (s.placeOnPort .window w) = exec i { s.placeOnPort .window w with turns := s.turns } := by
  let t : State := { s.placeOnPort .window w with turns := s.turns }
  have hwindow : t.pendingWindow = some (BitVec.ofNat 16 w) :=
    (pendingWindow_byte (s := t) rfl).trans (congrArg some (scanWindow_hi_lo _))
  exact step_decoder_run rfl (fetchDecoder_header (s := t) rfl rfl rfl hwindow hdecode)

theorem bcnt_placeOnPort_body (s : State) (pl : Place) (w : Nat) :
    (s.placeOnPort (.body pl) w).dec.bcnt.toNat % 2 = 1 := by
  simp only [State.placeOnPort, BitVec.toNat_ofNat]
  omega

/-- A word placed in the body stands at its place: the frame around it has the words before it, a FunctionWord
first. -/
theorem bodyPlace_placeOnPort_body {s : State} (hparams : s.params = Params.spec) (w : Nat) {pl : Place}
    (hpl : pl ∈ tablePlaces) : (s.placeOnPort (.body pl) w).bodyPlace = pl := by
  simp only [tablePlaces, List.mem_cons, List.not_mem_nil, or_false] at hpl
  rcases hpl with rfl | rfl | rfl <;>
    simp only [State.bodyPlace, Decoder.bodyIndex, Decoder.bodyWord, Decoder.bodyWords, State.placeOnPort, hparams] <;>
    decide

theorem step_placeOnPort_body {s : State} (hparams : s.params = Params.spec) (w : Nat) {pl : Place}
    (hpl : pl ∈ tablePlaces) :
    step (s.placeOnPort (.body pl) w) =
      exec (decodeBodyWord Params.spec pl (BitVec.ofNat 16 w))
        { s.placeOnPort (.body pl) w with turns := s.turns } := by
  let t : State := { s.placeOnPort (.body pl) w with turns := s.turns }
  have hword : t.pendingBodyWord = some (BitVec.ofNat 16 w) :=
    (pendingBodyWord_low (s := t) rfl (bcnt_placeOnPort_body s pl w)).trans (congrArg some (Word.ofBytes_hi_lo _))
  have hplace : t.bodyPlace = pl := bodyPlace_placeOnPort_body hparams w hpl
  have hspec : t.params = Params.spec := hparams
  have hfetch := fetchDecoder_bodyWord (s := t) rfl rfl hword
  rw [hspec, hplace] at hfetch
  exact step_decoder_run rfl hfetch

/-- Settles O49: port by port, the operation decoded from the table word's bytes is the one that the step fetches
where the word is placed. -/
theorem placedTableWordIsRun : Obligations.PlacedTableWordIsRun := by
  unfold Obligations.PlacedTableWordIsRun
  intro s nbits w i hparams htable
  obtain ⟨rest, hdecode⟩ := decodeTableWord_some htable
  unfold State.withFetchWord
  by_cases hcode : nbits < 16
  · have hbytes : tableBytes nbits w = [BitVec.ofNat 8 w, 0, 0, 0, 0] := if_pos hcode
    rw [hbytes] at hdecode
    rcases tablePort_code w hcode with hport | hport <;> rw [hport] at hdecode ⊢
    · rw [decode_command_zeros hdecode, extractLsb'_ofNat_byte w (by omega)]
      exact step_placeOnPort_command s w
    · rw [decode_query_zeros hdecode, extractLsb'_ofNat_byte w (by omega)]
      exact step_placeOnPort_query s w
  · have hbytes : tableBytes nbits w = wordBytes (BitVec.ofNat 16 w) := if_neg hcode
    rw [hbytes] at hdecode
    rcases tablePort_wire w hcode with hport | ⟨pl, hpl, hport⟩ <;> rw [hport] at hdecode ⊢
    · exact step_placeOnPort_window (hparams ▸ decode_window_wordBytes hdecode)
    · rw [decode_body_wordBytes hdecode]
      exact step_placeOnPort_body hparams w hpl

end Sys2Proof.Machine
end

section
/-! PROOF of O13, O15 and O17: the header check is a search for the first tested bit that differs from `HDR_MATCH`
(`hdrValidate_eq_ofBit`), so validity is the masked equality of 30_encoding.md R91, and a bit that is not tested
takes no part in it. -/

namespace Sys2Proof.Machine

open Sys2Proof

/-! ### Header validation as a search -/

/-- The bits that `HDR_MASK` tests, in the order in which they are reported (40_codec.md R130). -/
def testedBits : List Nat := [15, 13, 9, 7]

/-- Whether a word differs from `HDR_MATCH` at a bit. -/
def HdrMatch.failsAt (m : HdrMatch) (w : Word) (j : Nat) : Bool := w.getLsbD j != m.word.getLsbD j

/-- The check's result from the first failing bit, if there is one. -/
def HdrCheck.ofBit : Option Nat → HdrCheck
  | none => .ok
  | some bit => .invalid bit

theorem HdrCheck.ofBit_find?_cons (p : Nat → Bool) (j : Nat) (js : List Nat) :
    HdrCheck.ofBit ((j :: js).find? p) = if p j = true then .invalid j else HdrCheck.ofBit (js.find? p) := by
  rw [List.find?_cons]
  cases p j <;> rfl

/-- `HDR_MATCH` holds 1 at bit 15 and one value at the three others (40_codec.md R130). -/
theorem HdrMatch.word_getLsbD (m : HdrMatch) :
    m.word.getLsbD 15 = true ∧ m.word.getLsbD 13 = m.bit ∧ m.word.getLsbD 9 = m.bit ∧
      m.word.getLsbD 7 = m.bit := by
  cases m <;> decide

theorem hdrValidate_eq_ofBit (m : HdrMatch) (w : Word) :
    hdrValidate m w = HdrCheck.ofBit (testedBits.find? (HdrMatch.failsAt m w)) := by
  obtain ⟨h15, h13, h9, h7⟩ := HdrMatch.word_getLsbD m
  simp only [testedBits, HdrCheck.ofBit_find?_cons, HdrMatch.failsAt, bne_iff_ne, h15, h13, h9, h7]
  rfl

theorem hdrValidate_eq_ok_iff {m : HdrMatch} {w : Word} :
    hdrValidate m w = .ok ↔ ∀ j ∈ testedBits, w.getLsbD j = m.word.getLsbD j := by
  have hnone : hdrValidate m w = .ok ↔ testedBits.find? (HdrMatch.failsAt m w) = none := by
    rw [hdrValidate_eq_ofBit]
    cases testedBits.find? (HdrMatch.failsAt m w) <;> simp [HdrCheck.ofBit]
  simp [hnone, HdrMatch.failsAt]

theorem hdrMask_getLsbD {i : Nat} (hi : i < 16) : Config.hdrMask.getLsbD i = decide (i ∈ testedBits) := by
  decide +revert

theorem HdrMatch.word_and_hdrMask (m : HdrMatch) : m.word &&& Config.hdrMask = m.word := by
  cases m <;> rfl

/-- The masked equality of 30_encoding.md R91, bit by bit. -/
theorem and_hdrMask_eq_word_iff {m : HdrMatch} {w : Word} :
    w &&& Config.hdrMask = m.word ↔ ∀ j ∈ testedBits, w.getLsbD j = m.word.getLsbD j := by
  constructor
  case mp =>
    intro hmatch j htested
    have hmask : Config.hdrMask.getLsbD j = true := by decide +revert
    rw [← hmatch, BitVec.getLsbD_and, hmask, Bool.and_true]
  case mpr =>
    intro hbits
    rw [← HdrMatch.word_and_hdrMask m]
    refine word_eq fun i hi => ?_
    rw [BitVec.getLsbD_and, BitVec.getLsbD_and, hdrMask_getLsbD hi]
    by_cases htested : i ∈ testedBits
    · rw [hbits i htested]
    · simp [htested]

theorem hdrValidate_eq_ok_iff_and {m : HdrMatch} {w : Word} :
    hdrValidate m w = .ok ↔ w &&& Config.hdrMask = m.word :=
  hdrValidate_eq_ok_iff.trans and_hdrMask_eq_word_iff.symm

theorem hdrValidate_first_failing {m : HdrMatch} {w : Word} {before after : List Nat} {bit : Nat}
    (hsplit : testedBits = before ++ bit :: after)
    (hbefore : ∀ j ∈ before, w.getLsbD j = m.word.getLsbD j) (hbit : w.getLsbD bit ≠ m.word.getLsbD bit) :
    hdrValidate m w = .invalid bit := by
  have hfind : testedBits.find? (HdrMatch.failsAt m w) = some bit :=
    List.find?_eq_some_iff_append.2
      ⟨bne_iff_ne.2 hbit, before, after, hsplit, fun j hj => by simp [HdrMatch.failsAt, hbefore j hj]⟩
  rw [hdrValidate_eq_ofBit, hfind, HdrCheck.ofBit]

/-- Settles O13: `HDR_VALIDATE` answers the check, which is OK on the masked equality and else the bit found. -/
theorem hdrValidateReportsTheFirstFailingBit : Obligations.HdrValidateReportsTheFirstFailingBit := by
  unfold Obligations.HdrValidateReportsTheFirstFailingBit
  intro s w
  constructor
  · intro hmatch
    rw [exec_hdrValidate, hdrValidate_eq_ok_iff_and.2 hmatch]
    rfl
  · intro before after bit hsplit hbefore hbit
    rw [exec_hdrValidate, hdrValidate_first_failing hsplit hbefore hbit]
    rfl

/-- Settles O15: on a valid header the summary, and on any other word both queries answer the failing bit. -/
theorem hdrSummaryDescribesValidHeaders : Obligations.HdrSummaryDescribesValidHeaders := by
  unfold Obligations.HdrSummaryDescribesValidHeaders
  intro s w
  constructor
  · intro hmatch
    rw [exec_hdrSummary, hdrValidate_eq_ok_iff_and.2 hmatch]
    rfl
  · intro hmatch
    rw [exec_hdrSummary, exec_hdrValidate]
    cases hcheck : hdrValidate s.params.hdrMatch w with
    | ok => exact absurd (hdrValidate_eq_ok_iff_and.1 hcheck) hmatch
    | invalid bit => rfl

/-! ### The RESERVED bit -/

/-- Flipping RESERVED leaves every other bit. -/
theorem getLsbD_flipReserved (w : Word) {j : Nat} (hj : j ≠ 10) :
    (w ^^^ 0x0400#16).getLsbD j = w.getLsbD j := by
  have hother : (0x0400#16).getLsbD j = false := by
    rw [show (0x0400#16) = BitVec.twoPow 16 10 from rfl, BitVec.getLsbD_twoPow]
    simp [hj.symm]
  rw [BitVec.getLsbD_xor, hother, Bool.xor_false]

theorem hdrValidate_flipReserved (m : HdrMatch) (w : Word) :
    hdrValidate m (w ^^^ 0x0400#16) = hdrValidate m w := by
  have hfails : ∀ j ∈ testedBits, HdrMatch.failsAt m (w ^^^ 0x0400#16) j = HdrMatch.failsAt m w j := by
    intro j htested
    have hj : j ≠ 10 := by rintro rfl; exact absurd htested (by decide)
    rw [HdrMatch.failsAt, HdrMatch.failsAt, getLsbD_flipReserved w hj]
  rw [hdrValidate_eq_ofBit, hdrValidate_eq_ofBit, List.find?_congr hfails]

/-- A field below RESERVED does not hold it. -/
theorem extractLsb'_flipReserved (w : Word) {start len : Nat} (hbelow : start + len ≤ 10) :
    (w ^^^ 0x0400#16).extractLsb' start len = w.extractLsb' start len := by
  refine BitVec.eq_of_getLsbD_eq fun i hi => ?_
  rw [BitVec.getLsbD_extractLsb', BitVec.getLsbD_extractLsb', getLsbD_flipReserved w (by omega)]

theorem summary_flipReserved (w : Word) : summary (w ^^^ 0x0400#16) = summary w := by
  have hcount : wordCount (w ^^^ 0x0400#16) = wordCount w := by
    simp only [wordCount, extractLsb'_flipReserved w (show 8 + 1 ≤ 10 by decide),
      extractLsb'_flipReserved w (show 0 + 7 ≤ 10 by decide)]
  simp only [summary, isData, isResponse, canLog, isRecording, hcount,
    getLsbD_flipReserved w (show 14 ≠ 10 by decide), getLsbD_flipReserved w (show 12 ≠ 10 by decide),
    getLsbD_flipReserved w (show 11 ≠ 10 by decide)]

theorem classify_eq_packet {lm hdr : Word} {off : Pos} {body : List Word} {P : Packet}
    (h : classify lm hdr off body = .packet P) : ∃ front, P = packetOf hdr off body front := by
  rcases classify_cases lm hdr off body with ⟨front, -, -, hpacket⟩ | ⟨e, info, -, herror⟩
  · rw [hpacket] at h
    cases h
    exact ⟨front, rfl⟩
  · rw [herror] at h
    cases h

/-- PKT_WORDS on a packet held that has its `n` words (44_interface.md R280). -/
theorem exec_pktWords_held {s : State} (hvalid : s.dec.pktValid = true)
    (hwords : s.dec.pkt.body.length = s.dec.pkt.n.toNat) :
    exec .pktWords s = .next (s.answerQuery (.answer (.words s.dec.pkt.words))) := by
  show execPktWords s = _
  unfold execPktWords
  rw [if_pos hvalid, if_pos hwords]
  rfl

/-- Settles O17: bit 10 is neither tested nor in a field of the summary, and the packet classified keeps the header,
which PKT_WORDS answers before the body. -/
theorem reservedHeaderBitIsIgnored : Obligations.ReservedHeaderBitIsIgnored := by
  unfold Obligations.ReservedHeaderBitIsIgnored
  refine ⟨fun m w => ⟨hdrValidate_flipReserved m w, summary_flipReserved w⟩, ?_⟩
  intro lm hdr off body P s hclassify
  obtain ⟨front, rfl⟩ := classify_eq_packet hclassify
  refine ⟨rfl, fun hvalid hpkt hlength => ?_⟩
  have hwords : body.length = (BitVec.ofNat 8 body.length).toNat := by
    rw [BitVec.toNat_ofNat]
    omega
  rw [exec_pktWords_held hvalid (by rw [hpkt]; exact hwords), hpkt]
  rfl

end Sys2Proof.Machine
end

section
/-! PROOF of O14 and O18 to O22: each codec is fields at bit positions (30_encoding.md R90 to R98). A decode extracts
them, so its fields are quotients and remainders of the word's value; an encode appends them, so its word is the sum
of the fields at their weights; and decoding gives the view back by the round trip of the kind. -/

namespace Sys2Proof.Machine

open Sys2Proof

/-! ### Fields of a word as arithmetic -/

section Fields

variable {m n : Nat}

/-- The value of a field: the word's value from the field's position on, below the field's width. -/
theorem field_toNat (x : BitVec n) (start len : Nat) :
    (x.extractLsb' start len).toNat = x.toNat / 2 ^ start % 2 ^ len := by
  rw [BitVec.extractLsb'_toNat, Nat.shiftRight_eq_div_pow]

/-- The lowest field. -/
theorem lowField_toNat (x : BitVec n) (len : Nat) : (x.extractLsb' 0 len).toNat = x.toNat % 2 ^ len := by
  rw [field_toNat, pow_zero, Nat.div_one]

/-- The highest field, whose position and width make up the width of the word. -/
theorem topField_toNat (x : BitVec n) (start len : Nat) (htop : start + len = n) :
    (x.extractLsb' start len).toNat = x.toNat / 2 ^ start := by
  have hbound : x.toNat < 2 ^ start * 2 ^ len := by rw [← pow_add, htop]; exact x.isLt
  rw [field_toNat, Nat.mod_eq_of_lt (Nat.div_lt_of_lt_mul hbound)]

/-- Two fields side by side: the lower one's width is the weight of the higher one. -/
theorem append_toNat (x : BitVec m) (y : BitVec n) : (x ++ y).toNat = x.toNat * 2 ^ n + y.toNat := by
  rw [BitVec.toNat_append, ← Nat.shiftLeft_add_eq_or_of_lt y.isLt, Nat.shiftLeft_eq]

end Fields

/-! ### The codecs -/

/-- Settles O14: the fields of `hdrDecode` by position, and the word of `hdrEncode` as their sum. -/
theorem headerCodecFollowsTheLayout : Obligations.HeaderCodecFollowsTheLayout := by
  unfold Obligations.HeaderCodecFollowsTheLayout
  refine ⟨fun s w => ⟨hdrDecode w, rfl, topField_toNat w 15 1 rfl, field_toNat w 14 1, field_toNat w 13 1,
    field_toNat w 12 1, field_toNat w 11 1, field_toNat w 10 1, field_toNat w 9 1, field_toNat w 8 1,
    field_toNat w 7 1, lowField_toNat w 7⟩, fun s v => ⟨hdrEncode v, rfl, hdrDecode_hdrEncode v, ?_⟩⟩
  simp only [hdrEncode, append_toNat]
  omega

/-- The function names in the order of their codes (30_encoding.md R95). -/
theorem functionName_ofCode (c : BitVec 3) :
    [FunctionName.normal, .o2Tenths, .calibratingAir, .calRequired, .warmup, .calibratingHeat, .error,
      .reserved][c.toNat]? = some (FunctionName.ofCode c) := by
  decide +revert

/-- Settles O18: the fields by position, the name by its code, and `af_raw` the two value fields side by side. -/
theorem functionCodecFollowsTheLayout : Obligations.FunctionCodecFollowsTheLayout := by
  unfold Obligations.FunctionCodecFollowsTheLayout
  refine ⟨fun s w => ⟨funcDecode w, functionOf w, afRaw w, rfl, topField_toNat w 15 1 rfl, field_toNat w 14 1,
    field_toNat w 13 1, field_toNat w 10 3, field_toNat w 9 1, field_toNat w 8 1, field_toNat w 7 1,
    lowField_toNat w 7, functionName_ofCode (funcCode w), append_toNat _ _⟩,
    fun s v => ⟨funcEncode v, rfl, funcDecode_funcEncode v, ?_⟩⟩
  simp only [funcEncode, append_toNat]
  omega

/-- Settles O19: the fields by position, and `lambda_raw` the two value fields side by side. -/
theorem lambdaCodecFollowsTheLayout : Obligations.LambdaCodecFollowsTheLayout := by
  unfold Obligations.LambdaCodecFollowsTheLayout
  refine ⟨fun s w => ⟨lambdaDecode w, lambdaRaw w, rfl, topField_toNat w 15 1 rfl, field_toNat w 14 1,
    field_toNat w 8 6, field_toNat w 7 1, lowField_toNat w 7, append_toNat _ _⟩,
    fun s v => ⟨lambdaEncode v, rfl, lambdaDecode_lambdaEncode v, ?_⟩⟩
  simp only [lambdaEncode, append_toNat]
  omega

/-- Settles O20: the fields by position, the divider at any value, and `battery_raw` the two value fields side by
side. -/
theorem batteryCodecFollowsTheLayout : Obligations.BatteryCodecFollowsTheLayout := by
  unfold Obligations.BatteryCodecFollowsTheLayout
  refine ⟨fun s w => ⟨battDecode w, batteryRaw w, rfl, topField_toNat w 15 1 rfl, field_toNat w 14 1,
    field_toNat w 11 3, field_toNat w 8 3, field_toNat w 7 1, lowField_toNat w 7, append_toNat _ _⟩,
    fun s v => ⟨battEncode v, rfl, battDecode_battEncode v, ?_⟩⟩
  simp only [battEncode, append_toNat]
  omega

/-- Settles O21: the fields by position, and `aux_raw` the two value fields side by side. -/
theorem auxCodecFollowsTheLayout : Obligations.AuxCodecFollowsTheLayout := by
  unfold Obligations.AuxCodecFollowsTheLayout
  refine ⟨fun s w => ⟨auxDecode w, auxRaw w, rfl, topField_toNat w 11 5 rfl, field_toNat w 8 3, field_toNat w 7 1,
    lowField_toNat w 7, append_toNat _ _⟩, fun s v => ⟨auxEncode v, rfl, auxDecode_auxEncode v, ?_⟩⟩
  simp only [auxEncode, append_toNat]
  omega

/-- Settles O22: the round-trip laws of the five kinds together. -/
theorem codecsRoundTrip : Obligations.CodecsRoundTrip := by
  unfold Obligations.CodecsRoundTrip
  exact ⟨hdrEncode_hdrDecode, hdrDecode_hdrEncode, funcEncode_funcDecode, funcDecode_funcEncode,
    lambdaEncode_lambdaDecode, lambdaDecode_lambdaEncode, battEncode_battDecode, battDecode_battEncode,
    auxEncode_auxDecode, auxDecode_auxEncode⟩

end Sys2Proof.Machine
end

section
/-! PROOF of O24 to O29: the derived values (41_derived.md R170 to R175). AUX_VOLTS rounds twice and AF_VALUE
multiplies by a constant's exact value; both are one rounding, because `fl64` is exact on small naturals
(`fl64_scaled_of_lt`) and depends on the quotient alone (`fl64_mul_right`). The ranges hold because `fl64` is
monotone (`fl64_mono`). -/

namespace Sys2Proof

/-! ### Rounding, scaled and compared -/

theorem roundNearestEven_mul_right (a b : Nat) {k : Nat} (hk : 0 < k) :
    roundNearestEven (a * k) (b * k) = roundNearestEven a b := by
  simp only [roundNearestEven, Nat.mul_mod_mul_right, Nat.mul_div_mul_right _ _ hk, ← mul_assoc,
    Nat.mul_lt_mul_right hk]

theorem roundNearestEven_mul_self (c : Nat) {b : Nat} (hb : 0 < b) : roundNearestEven (c * b) b = c := by
  simp [roundNearestEven, hb]

theorem roundNearestEven_mono {a a' : Nat} (b : Nat) (h : a ≤ a') :
    roundNearestEven a b ≤ roundNearestEven a' b := by
  have hdiv : a / b ≤ a' / b := Nat.div_le_div_right h
  unfold roundNearestEven
  rcases Nat.lt_or_eq_of_le hdiv with hlt | heq
  case inl => split_ifs <;> omega
  case inr =>
    have hsplit := Nat.div_add_mod a b
    have hsplit' := Nat.div_add_mod a' b
    rw [heq] at hsplit
    have hmod : a % b ≤ a' % b := by omega
    rw [heq]
    split_ifs <;> omega

/-! ### What `fl64` depends on, and where it is exact -/

theorem fl64_mul_right (p q : Nat) {k : Nat} (hk : 0 < k) : fl64 (p * k) (q * k) = fl64 p q := by
  have hstep : expStep (p * k) (q * k) = expStep p q := by
    rw [expStep, expStep, mul_right_comm, Nat.mul_div_mul_right _ _ hk]
  rw [fl64, fl64, hstep, mul_right_comm p, mul_right_comm q, roundNearestEven_mul_right _ _ hk]

theorem fl64_zero (q : Nat) : fl64 0 q = F64.zero := by
  rw [fl64_eq, roundedSignificand, expStep, Nat.zero_mul, Nat.zero_mul, Nat.zero_div, Nat.log2_zero]
  simp [roundNearestEven, F64.zero]

/-- A natural number of at most 53 bits is a binary64. -/
theorem fl64_scaled_of_lt {n : Nat} (hn : n < 2 ^ 53) : (fl64 n 1).scaled = n * F64.unitDen := by
  have hrange : ∀ k, 53 ≤ k → n < 1 * 2 ^ k := fun k hk => by
    rw [Nat.one_mul]
    exact hn.trans_le (Nat.pow_le_pow_right Nat.two_pos hk)
  have hstep : expStep n 1 ≤ 1074 := Nat.le_of_lt_succ (expStep_lt Nat.one_pos (hrange 53 le_rfl))
  have hunit : n * F64.unitDen = n * 2 ^ (1074 - expStep n 1) * 2 ^ expStep n 1 := by
    rw [mul_assoc, ← pow_add, Nat.sub_add_cancel hstep, F64.unitDen]
  have hround : roundedSignificand n 1 = n * 2 ^ (1074 - expStep n 1) := by
    rw [roundedSignificand, hunit, one_mul, roundNearestEven_mul_self _ (by positivity)]
  rw [fl64_scaled Nat.one_pos (hrange 1023 (by decide)), hround, hunit]

/-- `fl64` is monotone: a higher step outweighs the carry of a lower one. -/
theorem fl64_mono {p p' q : Nat} (hq : 0 < q) (h : p ≤ p') (hp' : p' < q * 2 ^ 1023) :
    (fl64 p q).toNat ≤ (fl64 p' q).toNat := by
  have hstep : expStep p q ≤ expStep p' q := by
    rw [expStep, expStep, Nat.log2_eq_log_two, Nat.log2_eq_log_two]
    exact Nat.log_mono_right (Nat.div_le_div_right (Nat.mul_le_mul_right _ h))
  rw [fl64_toNat hq (h.trans_lt hp'), fl64_toNat hq hp']
  rcases Nat.lt_or_eq_of_le hstep with hlt | heq
  case inl =>
    have hcarry := roundedSignificand_le p q hq
    have hlead := (expStep_eq_zero_or_le_roundedSignificand p' q hq).resolve_left (by omega)
    omega
  case inr =>
    have hround : roundedSignificand p q ≤ roundedSignificand p' q := by
      rw [roundedSignificand, heq]
      exact roundNearestEven_mono _ (Nat.mul_le_mul_right _ h)
    omega

/-! ### The aux values -/

/-- The inner product is exact, so only the quotient is rounded. -/
theorem auxVolts_eq (w : Word) : auxVolts w = fl64 ((auxRaw w).toNat * 5) 1023 := by
  unfold auxVolts
  split
  case isTrue hzero => rw [hzero, BitVec.ofNat_eq_ofNat, BitVec.toNat_zero, Nat.zero_mul, fl64_zero]
  case isFalse =>
    have hexact : (auxRaw w).toNat * 5 < 2 ^ 53 := by omega
    rw [F64.divNat, F64.ofNat, fl64_scaled_of_lt hexact, mul_comm F64.unitDen,
      fl64_mul_right _ _ (by rw [F64.unitDen]; positivity)]

theorem auxPercent_eq (w : Word) : auxPercent w = fl64 (auxRaw w).toNat 1023 := by
  unfold auxPercent
  split
  case isTrue hzero => rw [hzero, BitVec.ofNat_eq_ofNat, BitVec.toNat_zero, fl64_zero]
  case isFalse => rfl

theorem fl64_fullVolts : fl64 (1023 * 5) 1023 = 0x4014000000000000#64 := by decide +kernel

theorem fl64_fullPercent : fl64 1023 1023 = 0x3FF0000000000000#64 := by decide +kernel

theorem auxRaw_le (w : Word) : (auxRaw w).toNat ≤ 1023 := by omega

theorem auxRpm_toNat (w : Word) : (auxRpm w).toNat = (auxRaw w).toNat * 10 := by
  have hraw := auxRaw_le w
  rw [auxRpm, BitVec.toNat_mul, BitVec.toNat_setWidth, BitVec.ofNat_eq_ofNat, BitVec.toNat_ofNat,
    Nat.mod_eq_of_lt (a := 10) (by decide)]
  omega

/-! ### The air/fuel values -/

theorem F64.tenth_scaled : F64.tenth.scaled = 0x1999999999999A * 2 ^ 1018 :=
  F64.scaled_of_toNat (t := 1018) (by decide) (by decide) (by decide) (by decide)

/-- The product with the constant's exact value, rounded once. -/
theorem natMul_tenth (n : Nat) : F64.natMul n F64.tenth = fl64 (n * 0x1999999999999A) (2 ^ 56) := by
  rw [F64.natMul, F64.tenth_scaled, F64.unitDen, show 1074 = 56 + 1018 from rfl, pow_add, ← mul_assoc,
    fl64_mul_right _ _ (by positivity)]

/-- The failures of PKT_AFR that come before the function's (41_derived.md R175). -/
theorem packetAfr_absent {P : Packet} (h : P.n = 0 ∨ P.kind[0]? ≠ some .function) :
    packetAfr P = some (.fail (.functionNotNormal none)) := by
  rw [packetAfr, if_pos (by rwa [List.head?_eq_getElem?])]

/-- With a FunctionWord at index 0, the function of word 0 decides. -/
theorem packetAfr_function {P : Packet} {w0 w1 : Word} {rest : List Word} (hn : P.n ≠ 0)
    (hkind : P.kind[0]? = some .function) (hbody : P.body = w0 :: w1 :: rest) :
    packetAfr P = some (if functionOf w0 = .normal then .answer (.real (afr w0 w1))
      else .fail (.functionNotNormal (some (functionOf w0)))) := by
  rw [packetAfr, if_neg (by rw [List.head?_eq_getElem?, hkind]; simpa using hn), hbody]
  by_cases hnormal : functionOf w0 = .normal <;> simp [hnormal]

namespace Machine

/-! ### The queries -/

/-- Settles O24: one rounding by `auxVolts_eq`, and the range by monotonicity up to raw 1023. -/
theorem auxVoltsIsOneRounding : Obligations.AuxVoltsIsOneRounding := by
  unfold Obligations.AuxVoltsIsOneRounding
  intro s w
  refine ⟨auxVolts w, rfl, auxVolts_eq w, fun hzero => if_pos hzero, fun hfull => ?_, ?_⟩
  · rw [auxVolts_eq, hfull]
    exact fl64_fullVolts
  · have hmono : (fl64 ((auxRaw w).toNat * 5) 1023).toNat ≤ (fl64 (1023 * 5) 1023).toNat :=
      fl64_mono (by decide) (Nat.mul_le_mul_right 5 (auxRaw_le w)) (by decide +kernel)
    rwa [← auxVolts_eq, fl64_fullVolts] at hmono

/-- Settles O25: the range by monotonicity up to raw 1023. -/
theorem auxPercentIsAFraction : Obligations.AuxPercentIsAFraction := by
  unfold Obligations.AuxPercentIsAFraction
  intro s w
  refine ⟨auxPercent w, rfl, auxPercent_eq w, fun hzero => if_pos hzero, fun hfull => ?_, ?_⟩
  · rw [auxPercent_eq, hfull]
    exact fl64_fullPercent
  · have hmono : (fl64 (auxRaw w).toNat 1023).toNat ≤ (fl64 1023 1023).toNat :=
      fl64_mono (by decide) (auxRaw_le w) (by decide +kernel)
    rwa [← auxPercent_eq, fl64_fullPercent] at hmono

/-- Settles O26: the product fits 14 bits. -/
theorem auxRpmIsExact : Obligations.AuxRpmIsExact := by
  unfold Obligations.AuxRpmIsExact
  intro s w
  have hraw := auxRaw_le w
  have hrpm := auxRpm_toNat w
  exact ⟨auxRpm w, rfl, hrpm, by omega⟩

theorem exec_afValue (w : Word) (s : State) : exec (.afValue w) s = .next (s.answerQuery (.answer (afValue w))) := rfl

theorem exec_afUnits (w : Word) (s : State) : exec (.afUnits w) s = .next (s.answerQuery (.answer (afUnits w))) := rfl

/-- Settles O27: by the function, with `natMul_tenth` for the tenths. -/
theorem afValueFollowsTheFunction : Obligations.AfValueFollowsTheFunction := by
  unfold Obligations.AfValueFollowsTheFunction
  intro s w
  rw [exec_afValue, afValue]
  cases functionOf w
  case o2Tenths | warmup => exact ⟨fun _ => by rw [natMul_tenth]; rfl, by simp, by simp⟩
  case calibratingAir | calRequired | reserved => exact ⟨by simp, fun _ => rfl, by simp⟩
  case normal | calibratingHeat | error =>
    have hraw : ((afRaw w).setWidth 14).toNat = (afRaw w).toNat := BitVec.toNat_setWidth_of_le (by decide)
    exact ⟨by simp, by simp, fun _ => ⟨_, hraw, rfl⟩⟩

/-- Settles O28: by the function. -/
theorem afUnitsFollowTheFunction : Obligations.AfUnitsFollowTheFunction := by
  unfold Obligations.AfUnitsFollowTheFunction
  intro s w
  rw [exec_afUnits, afUnits]
  cases functionOf w
  case normal => exact ⟨fun _ => rfl, by simp, by simp, by simp⟩
  case o2Tenths | warmup => exact ⟨by simp, fun _ => rfl, by simp, by simp⟩
  case calibratingHeat => exact ⟨by simp, by simp, fun _ => rfl, by simp⟩
  case calibratingAir | calRequired | error | reserved => exact ⟨by simp, by simp, by simp, fun _ => rfl⟩

theorem exec_pktAfr_noPacket {s : State} (hvalid : s.dec.pktValid = false) :
    exec .pktAfr s = .next (s.answerQuery (.fail .noPacket)) := by
  show execPktAfr s = _
  rw [execPktAfr, if_neg (by simp [hvalid])]

theorem exec_pktAfr_held {s : State} {o : QueryOut} (hvalid : s.dec.pktValid = true)
    (ho : packetAfr s.dec.pkt = some o) : exec .pktAfr s = .next (s.answerQuery o) := by
  show execPktAfr s = _
  rw [execPktAfr, if_pos hvalid, ho]

/-- Settles O29: the query answers `packetAfr` of the packet held, case by case. -/
theorem packetAfrFollowsTheFormula : Obligations.PacketAfrFollowsTheFormula := by
  unfold Obligations.PacketAfrFollowsTheFormula
  intro s
  refine ⟨exec_pktAfr_noPacket, fun hvalid => ⟨fun habsent => ?_, ?_⟩⟩
  · exact exec_pktAfr_held hvalid (packetAfr_absent habsent)
  · intro w0 w1 rest hn hkind hbody
    rw [exec_pktAfr_held hvalid (packetAfr_function hn hkind hbody)]
    exact ⟨fun hother => by rw [if_neg hother]; rfl, fun hnormal => by rw [if_pos hnormal]; rfl⟩

end Machine
end Sys2Proof
end

section
/-! PROOF of O32 to O35: what one scan step does, case by case (42_scanner.md R202 to R205, R208). -/

namespace Sys2Proof.Machine

open Sys2Proof

/-! ### The scan window and its count -/

theorem scanWindow_eq (sr : Word) (b : Byte) : scanWindow sr b = sr <<< 8 ||| b.setWidth 16 := by
  unfold scanWindow Word.ofBytes Word.lo
  refine word_eq fun i hi => ?_
  simp only [BitVec.getLsbD_append, BitVec.getLsbD_extractLsb', BitVec.getLsbD_or, BitVec.getLsbD_shiftLeft,
    BitVec.getLsbD_setWidth]
  interval_cases i <;> simp

@[simp] theorem scanWindow_lo (sr : Word) (b : Byte) : (scanWindow sr b).lo = b := Word.lo_ofBytes _ _

theorem satIncr_eq (c : Count) : satIncr c = BitVec.ofNat 32 (min (c.toNat + 1) (2 ^ 32 - 1)) := by
  rw [← satIncr_toNat, BitVec.ofNat_toNat, BitVec.setWidth_eq]

theorem hdrValid_iff_and {m : HdrMatch} {w : Word} :
    hdrValid m w = true ↔ w &&& Config.hdrMask = m.word := by
  rw [hdrValid, decide_eq_true_iff, hdrValidate_eq_ok_iff_and]

theorem Decoder.budgetSpent_iff (d : Decoder) :
    d.budgetSpent = true ↔ d.budgetEn = true ∧ d.maxBytes.toNat ≤ d.seekCnt.toNat := by
  simp [Decoder.budgetSpent]

theorem Decoder.budgetSpent_eq_false_iff (d : Decoder) :
    d.budgetSpent = false ↔ (d.budgetEn = true → d.seekCnt.toNat < d.maxBytes.toNat) := by
  simp [Decoder.budgetSpent]

/-! ### The scan step by the source's answer -/

section ScanStep

variable {s : State} {b : Byte} {rest : List Answer}

theorem scanStep_budgetSpent (hbudget : s.dec.budgetSpent = true) :
    s.scanStep = { s with dec := s.dec.raise .syncTimeout ⟨s.dec.pos, s.dec.seekCnt⟩ } := if_pos hbudget

theorem scanStep_eos (hbudget : s.dec.budgetSpent = false) (hsource : s.source = .eos :: rest) :
    s.scanStep = { s with source := rest, dec := s.dec.raise .streamEnded ⟨s.dec.pos, s.dec.seekCnt⟩ } := by
  simp [State.scanStep, hbudget, State.readByte, hsource, State.mapDec]

/-- The HEADER step of a valid window is the scan step (42_scanner.md R203). -/
theorem exec_header (hst : s.dec.st = .seek) (hsource : s.source = .byte b :: rest)
    (hvalid : hdrValid s.params.hdrMatch (scanWindow s.dec.sr b) = true) :
    exec (.header (scanWindow s.dec.sr b)) s = .next s.scanStep :=
  (if_pos ⟨pendingWindow_byte hsource, hvalid⟩).trans (execScanByte_seek hst)

end ScanStep

/-! ### A byte taken into the window -/

/-- The decoder after bytes whose windows are no header (42_scanner.md R208): `SR`, `SEEKCNT` and `POS` move. -/
def Decoder.swallow (bs : List Byte) (d : Decoder) : Decoder :=
  { d with
    sr := bs.foldl scanWindow d.sr
    seekCnt := satIncr^[bs.length] d.seekCnt
    pos := d.pos + BitVec.ofNat 32 bs.length }

/-- The decoder after the byte that completes the header `w`: the window is latched with the position of its first
byte (42_scanner.md R202). -/
def Decoder.latch (w : Word) (d : Decoder) : Decoder :=
  { d with
    seekCnt := satIncr d.seekCnt, sr := w, pos := d.pos + 1, hdr := w, hdrOff := d.pos - 1, bcnt := 0 }

section TakeByte

variable {s : State} {b : Byte} {rest : List Answer} (hbudget : s.dec.budgetSpent = false)
  (hsource : s.source = .byte b :: rest)
include hbudget hsource

theorem scanStep_byte :
    s.scanStep =
      { s with
        source := rest
        dec := Decoder.scanned s.params s.dec.pos b { s.dec with pos := s.dec.pos + 1 } } := by
  simp [State.scanStep, hbudget, State.readByte, hsource, State.mapDec]

theorem scanStep_invalid (hinvalid : hdrValid s.params.hdrMatch (scanWindow s.dec.sr b) = false) :
    s.scanStep = { s with source := rest, dec := s.dec.swallow [b] } := by
  rw [scanStep_byte hbudget hsource]
  simp only [Decoder.scanned, hinvalid]
  rfl

theorem scanStep_body (hvalid : hdrValid s.params.hdrMatch (scanWindow s.dec.sr b) = true)
    (hcount : wordCount (scanWindow s.dec.sr b) ≠ 0) :
    s.scanStep =
      { s with source := rest, dec := { s.dec.latch (scanWindow s.dec.sr b) with st := .body } } := by
  rw [scanStep_byte hbudget hsource]
  simp only [Decoder.scanned, hvalid, hcount, if_true, if_false]
  rfl

theorem scanStep_empty (hvalid : hdrValid s.params.hdrMatch (scanWindow s.dec.sr b) = true)
    (hcount : wordCount (scanWindow s.dec.sr b) = 0) :
    s.scanStep =
      { s with
        source := rest
        dec := (s.dec.latch (scanWindow s.dec.sr b)).deliver
          (classify s.params.lmMask (scanWindow s.dec.sr b) (s.dec.pos - 1) []) } := by
  rw [scanStep_byte hbudget hsource]
  simp only [Decoder.scanned, hvalid, hcount, if_true]
  rfl

end TakeByte

/-! ### The obligations -/

/-- Settles O32: the budget test comes first. -/
theorem spentBudgetRaisesSyncTimeout : Obligations.SpentBudgetRaisesSyncTimeout := by
  unfold Obligations.SpentBudgetRaisesSyncTimeout
  intro s hst
  refine ⟨s.dec.budgetSpent_iff, fun hbudget => ?_⟩
  exact (execScanByte_seek hst).trans (congrArg _ (scanStep_budgetSpent hbudget))

/-- Settles O33: the scan step on EOS. -/
theorem endOfStreamWhileSeekingRaisesStreamEnded : Obligations.EndOfStreamWhileSeekingRaisesStreamEnded := by
  unfold Obligations.EndOfStreamWhileSeekingRaisesStreamEnded
  intro s rest hst hbudget hsource
  exact (execScanByte_seek hst).trans (congrArg _ (scanStep_eos hbudget hsource))

/-- Settles O34: the scan step on a byte whose window is no header. -/
theorem invalidWindowIsSwallowed : Obligations.InvalidWindowIsSwallowed := by
  unfold Obligations.InvalidWindowIsSwallowed
  intro s b rest hst hbudget hsource hmask
  have hinvalid : hdrValid s.params.hdrMatch (scanWindow s.dec.sr b) = false :=
    Bool.eq_false_iff.2 fun hvalid => hmask (hdrValid_iff_and.1 hvalid)
  refine (execScanByte_seek hst).trans ?_
  rw [scanStep_invalid hbudget hsource hinvalid, ← scanWindow_eq, ← satIncr_eq]
  rfl

/-- Settles O35: HEADER is the scan step, which latches the window and ends the seek by its word count. -/
theorem validWindowLatchesTheHeader : Obligations.ValidWindowLatchesTheHeader := by
  unfold Obligations.ValidWindowLatchesTheHeader
  intro s b rest w hst hbudget hsource hw hmask i hi
  rw [← scanWindow_eq] at hw
  subst hw
  have hvalid : hdrValid s.params.hdrMatch (scanWindow s.dec.sr b) = true := hdrValid_iff_and.2 hmask
  have hexec : exec i s = .next s.scanStep := by
    simp only [List.mem_cons, List.not_mem_nil, or_false] at hi
    rcases hi with rfl | rfl
    · exact execScanByte_seek hst
    · exact exec_header hst hsource hvalid
  rw [hexec, ← satIncr_eq]
  exact ⟨fun hcount => congrArg _ (scanStep_body hbudget hsource hvalid hcount),
    fun hcount => congrArg _ (scanStep_empty hbudget hsource hvalid hcount)⟩

end Sys2Proof.Machine
end

section
/-! Runs of the decoder: a run is one turn of the decoder and then the rest of the run (`decoderRun_succ_iff`), so that
an invariant, a state that a turn leaves, and a longer run are each settled by the turn. -/

namespace Sys2Proof.Machine

open Sys2Proof

/-! ### The body step by the source's answer -/

section BodyStep

variable {s : State} {rest : List Answer} (hroom : s.dec.bcnt.toNat < 2 * s.dec.bodyWords)
include hroom

theorem bodyStep_silent (hsource : s.source = []) : s.bodyStep = .next s := by
  simp [State.bodyStep, hroom, State.readByte, hsource]

theorem bodyStep_eos (hsource : s.source = .eos :: rest) :
    s.bodyStep =
      .next { s with
        source := rest
        dec := s.dec.raise .truncatedStream ⟨s.dec.hdrOff, s.dec.bcnt.setWidth 32⟩ } := by
  simp [State.bodyStep, hroom, State.readByte, hsource, State.mapDec]

theorem bodyStep_byte {b : Byte} {d : Decoder} (hsource : s.source = .byte b :: rest)
    (htaken : Decoder.bodyTaken s.params b { s.dec with pos := s.dec.pos + 1 } = some d) :
    s.bodyStep = .next { s with source := rest, dec := d } := by
  simp only [State.bodyStep, hroom, if_true, State.readByte, hsource, htaken]

end BodyStep

/-! ### The decoder's turn does not see the turns to come -/

theorem scanStep_turns (s : State) (ts : List Turn) :
    State.scanStep { s with turns := ts } = { s.scanStep with turns := ts } := by
  rcases s.scanStep_cases with
    ⟨hbudget, ht⟩ | ⟨hbudget, hsource, ht⟩ | ⟨hbudget, _, hsource, ht⟩ | ⟨hbudget, _, _, hsource, ht⟩ <;> rw [ht]
  · exact scanStep_budgetSpent (s := { s with turns := ts }) hbudget
  · exact scanStep_silent (s := { s with turns := ts }) hbudget hsource
  · exact scanStep_eos (s := { s with turns := ts }) hbudget hsource
  · exact scanStep_byte (s := { s with turns := ts }) hbudget hsource

theorem bodyStep_turns {s t : State} (h : s.bodyStep = .next t) (ts : List Turn) :
    State.bodyStep { s with turns := ts } = .next { t with turns := ts } := by
  obtain ⟨hroom, ⟨hsource, rfl⟩ | ⟨rest, hsource, rfl⟩ | ⟨b, rest, d, hsource, htaken, rfl⟩⟩ :=
    State.bodyStep_next h
  · exact bodyStep_silent (s := { t with turns := ts }) hroom hsource
  · exact bodyStep_eos (s := { s with turns := ts }) hroom hsource
  · exact bodyStep_byte (s := { s with turns := ts }) hroom hsource htaken

theorem perform_fetchDecoder_turns {s t : State} (h : s.fetchDecoder.perform = .next t) (ts : List Turn) :
    (State.fetchDecoder { s with turns := ts }).perform = .next { t with turns := ts } := by
  match hst : s.dec.st with
  | .idle =>
    rw [fetchDecoder_idle hst] at h
    cases h
    rw [fetchDecoder_idle (s := { s with turns := ts }) hst]
    rfl
  | .seek =>
    rw [perform_fetchDecoder_seek hst] at h
    cases h
    rw [perform_fetchDecoder_seek (s := { s with turns := ts }) hst, scanStep_turns]
  | .body =>
    by_cases hsource : s.source = []
    · rw [fetchDecoder_body_silent hst hsource] at h
      cases h
      rw [fetchDecoder_body_silent (s := { s with turns := ts }) hst hsource]
      rfl
    · rw [perform_fetchDecoder_body hst hsource] at h
      rw [perform_fetchDecoder_body (s := { s with turns := ts }) hst hsource, bodyStep_turns h]
  | .illegal =>
    rw [fetchDecoder_illegal hst] at h
    cases h

/-! ### Runs -/

theorem decoderRun_zero (s : State) : decoderRun 0 s = .next { s with turns := [] } := rfl

theorem decoderRun_succ_iff {k : Nat} {s u : State} :
    decoderRun (k + 1) s = .next u ↔ ∃ t, s.fetchDecoder.perform = .next t ∧ decoderRun k t = .next u := by
  have hstep : step (s.withDecoderTurns (k + 1)) =
      (State.fetchDecoder { s with turns := List.replicate k .decoder }).perform :=
    step_cons (s := s.withDecoderTurns (k + 1)) rfl
  constructor
  case mp =>
    intro hrun
    unfold decoderRun steps at hrun
    rw [hstep] at hrun
    split at hrun
    case h_1 t ht =>
      have hkept : t.turns = List.replicate k .decoder := by cases decoder_effect ht <;> rfl
      refine ⟨{ t with turns := s.turns }, perform_fetchDecoder_turns ht s.turns, ?_⟩
      rw [← hrun]
      unfold decoderRun State.withDecoderTurns
      rw [← hkept]
    case h_2 => cases hrun
    case h_3 => cases hrun
  case mpr =>
    rintro ⟨t, ht, hrun⟩
    unfold decoderRun steps
    rw [hstep, perform_fetchDecoder_turns ht]
    exact hrun

theorem decoderRun_add_iff {j k : Nat} {s u : State} :
    decoderRun (j + k) s = .next u ↔ ∃ t, decoderRun j s = .next t ∧ decoderRun k t = .next u := by
  induction j generalizing s with
  | zero =>
    rw [Nat.zero_add, decoderRun_zero]
    constructor
    · exact fun hrun => ⟨_, rfl, hrun⟩
    · rintro ⟨t, ht, hrun⟩
      cases ht
      exact hrun
  | succ j ih =>
    simp only [Nat.add_right_comm, decoderRun_succ_iff, ih]
    constructor
    · rintro ⟨v, hv, t, ht, hrun⟩
      exact ⟨t, ⟨v, hv, ht⟩, hrun⟩
    · rintro ⟨t, ⟨v, hv, ht⟩, hrun⟩
      exact ⟨v, hv, t, ht, hrun⟩

/-- A predicate that does not speak of the turns to come and that each turn of the decoder keeps, every run of the
decoder keeps. -/
theorem decoderRun_keeps {p : State → Prop} (hturns : ∀ s, p s → p { s with turns := [] })
    (hkeep : ∀ s t, TurnEffect .decoder s t → p s → p t) {k : Nat} {s t : State}
    (hrun : decoderRun k s = .next t) (h : p s) : p t := by
  induction k generalizing s with
  | zero => cases hrun; exact hturns s h
  | succ k ih =>
    obtain ⟨u, hu, hrun⟩ := decoderRun_succ_iff.1 hrun
    exact ih hrun (hkeep s u (decoder_effect hu) h)

/-- A state that the decoder's turn leaves as it is, any number of its turns does. -/
theorem decoderRun_fixed {s : State} (h : s.fetchDecoder.perform = .next s) (k : Nat) :
    decoderRun k s = .next { s with turns := [] } := by
  induction k with
  | zero => rfl
  | succ k ih => exact decoderRun_succ_iff.2 ⟨s, h, ih⟩

theorem decoderRun_idle {s : State} (hst : s.dec.st = .idle) (k : Nat) :
    decoderRun k s = .next { s with turns := [] } :=
  decoderRun_fixed (by rw [fetchDecoder_idle hst]; rfl) k

/-- A turn of the decoder takes one answer from the source at most. -/
theorem decoderRun_source_length {k : Nat} {s t : State} (hrun : decoderRun k s = .next t) :
    s.source.length ≤ t.source.length + k := by
  induction k generalizing s with
  | zero => cases hrun; exact Nat.le_refl _
  | succ k ih =>
    obtain ⟨u, hu, hrun⟩ := decoderRun_succ_iff.1 hrun
    have hrest := ih hrun
    have hturn : s.source.length ≤ u.source.length + 1 := by
      cases decoder_effect hu with
      | waits => simp
      | timeout => simp
      | streamEnded _ hsource => simp [hsource]
      | scanned _ _ hsource => simp [hsource]
      | truncated _ hsource => simp [hsource]
      | bodyTaken _ _ hsource => simp [hsource]
    omega

end Sys2Proof.Machine
end

section
/-! PROOF of O36, O38 and O58: what a turn of the decoder keeps in SEEK and in BODY (42_scanner.md R205, R207,
R209). -/

namespace Sys2Proof.Machine

open Sys2Proof

/-- Settles O36: the silent source is read as no answer, in SEEK and in BODY. -/
theorem silentSourceSuspendsTheDecoder : Obligations.SilentSourceSuspendsTheDecoder := by
  unfold Obligations.SilentSourceSuspendsTheDecoder
  intro s k hsource hst
  refine decoderRun_fixed ?_ k
  rcases hst with ⟨hst, hbudget⟩ | hst
  · rw [perform_fetchDecoder_seek hst, scanStep_silent hbudget hsource]
  · rw [fetchDecoder_body_silent hst hsource]
    rfl

/-! ### A body byte and the scanner's registers -/

theorem Decoder.bodyTaken_scanner {par : Params} {b : Byte} {d d' : Decoder}
    (h : d.bodyTaken par b = some d') (hst : d.st = .body) :
    d'.sr = d.sr ∧ d'.seekCnt = d.seekCnt ∧ d'.hdr = d.hdr ∧ d'.hdrOff = d.hdrOff ∧
      (d'.st = .body ∨ d'.st = .idle) := by
  rcases Decoder.bodyTaken_some h with ⟨-, rfl⟩ | ⟨-, -, rfl⟩ | ⟨ws, -, -, -, rfl⟩ <;> simp [hst]

/-- Settles O58: in BODY a turn waits, fails the frame, or takes a body byte. -/
theorem bodyBytesAreNotScanned : Obligations.BodyBytesAreNotScanned := by
  unfold Obligations.BodyBytesAreNotScanned
  intro s t ts hst hturns hstep
  rw [step_cons hturns] at hstep
  cases turn_effect hstep with
  | waits => exact ⟨rfl, rfl, rfl, rfl, .inl hst⟩
  | truncated => exact ⟨rfl, rfl, rfl, rfl, .inr rfl⟩
  | bodyTaken _ _ _ htaken =>
    have hkept := Decoder.bodyTaken_scanner htaken hst
    exact hkept
  | timeout hseek => cases hst.symm.trans hseek
  | streamEnded hseek => cases hst.symm.trans hseek
  | scanned hseek => cases hst.symm.trans hseek

/-! ### The budget bounds the seek -/

/-- What a seek from its start `s` has done by the time that it stands in `t`, still in SEEK: `SEEKCNT` counts the
answers consumed, within the budget (42_scanner.md R205). -/
def SeekCounted (s t : State) : Prop :=
  t.dec.st = .seek →
    t.dec.budgetEn = s.dec.budgetEn ∧ t.dec.maxBytes = s.dec.maxBytes ∧
    t.dec.seekCnt.toNat ≤ s.dec.maxBytes.toNat ∧ t.dec.pos = s.dec.pos + t.dec.seekCnt ∧
    t.source = s.source.drop t.dec.seekCnt.toNat

/-- Below a bound the count does not saturate. -/
theorem satIncr_of_lt {c n : Count} (h : c.toNat < n.toNat) :
    satIncr c = c + 1 ∧ (satIncr c).toNat = c.toNat + 1 := by
  have hn := n.isLt
  have hcount : (satIncr c).toNat = c.toNat + 1 := by
    rw [satIncr_toNat]
    omega
  refine ⟨BitVec.eq_of_toNat_eq ?_, hcount⟩
  rw [hcount, BitVec.toNat_add, show BitVec.toNat (1 : Count) = 1 from rfl]
  omega

/-- A byte that leaves the seek in SEEK is counted, and the budget was not spent before it. -/
theorem SeekCounted.scanned {s t : State} {b : Byte} {rest : List Answer} (hen : s.dec.budgetEn = true)
    (h : SeekCounted s t) (hst : t.dec.st = .seek) (hbudget : t.dec.budgetSpent = false)
    (hsource : t.source = .byte b :: rest) :
    SeekCounted s
      { t with
        source := rest
        dec := Decoder.scanned t.params t.dec.pos b { t.dec with pos := t.dec.pos + 1 } } := by
  intro hseek
  obtain ⟨hkept, hmax, -, hpos, hdrop⟩ := h hst
  rcases Decoder.scanned_cases t.params t.dec.pos b { t.dec with pos := t.dec.pos + 1 } with
    ⟨-, hd⟩ | ⟨-, -, hd⟩ | ⟨-, -, hd⟩ <;> simp only [hd] at hseek ⊢
  · have hlt : t.dec.seekCnt.toNat < s.dec.maxBytes.toNat := by
      rw [← hmax]
      exact t.dec.budgetSpent_eq_false_iff.1 hbudget (hkept.trans hen)
    obtain ⟨hsucc, hcount⟩ := satIncr_of_lt hlt
    refine ⟨hkept, hmax, by omega, ?_, ?_⟩
    · rw [hsucc, hpos, BitVec.add_assoc]
    · rw [hcount, ← List.tail_drop, ← hdrop, hsource]
      rfl
  · cases hseek
  · cases hseek

theorem SeekCounted.turn {s t u : State} (hen : s.dec.budgetEn = true) (heffect : TurnEffect .decoder t u)
    (h : SeekCounted s t) : SeekCounted s u := by
  cases heffect with
  | waits => exact h
  | timeout => exact fun hseek => by cases hseek
  | streamEnded => exact fun hseek => by cases hseek
  | truncated => exact fun hseek => by cases hseek
  | scanned hst hbudget hsource => exact h.scanned hen hst hbudget hsource
  | @bodyTaken _ _ _ d hst _ _ htaken =>
    intro (hseek : d.st = .seek)
    obtain ⟨-, -, -, -, hend⟩ := Decoder.bodyTaken_scanner htaken hst
    simp [hseek] at hend

/-- Settles O38: the start of the seek is counted, and each turn of the decoder keeps it so. -/
theorem seekNeverExceedsTheBudget : Obligations.SeekNeverExceedsTheBudget := by
  unfold Obligations.SeekNeverExceedsTheBudget
  intro s t k _ hcnt hen hrun hseek
  have hstart : SeekCounted s s := fun _ => by simp [hcnt]
  obtain ⟨-, -, hcounted⟩ :=
    decoderRun_keeps (fun _ h => h) (fun _ _ heffect h => h.turn hen heffect) hrun hstart hseek
  exact hcounted

end Sys2Proof.Machine
end

section
/-! PROOF of O37: a seek swallows the bytes that form no header and latches the first window that is one
(42_scanner.md R206). -/

namespace Sys2Proof.Machine

open Sys2Proof

/-! ### Bytes that form no header -/

/-- No two neighbours of the bytes form a valid header. -/
def NoHeader (m : HdrMatch) (bs : List Byte) : Prop :=
  bs.IsChain fun x y => hdrValid m (Word.ofBytes x y) = false

/-- The window of one byte over the cleared `SR` is no header (42_scanner.md R202). -/
theorem hdrValid_ofBytes_zero (m : HdrMatch) (b : Byte) : hdrValid m (Word.ofBytes 0 b) = false := by
  have hbit : (Word.ofBytes 0 b).getLsbD 15 = false := by
    rw [Word.ofBytes, BitVec.getLsbD_append]
    simp
  unfold hdrValid hdrValidate
  rw [hbit]
  rfl

/-- A seek from its start has seen no header where no two bytes before the low byte of the first one form one. -/
theorem noHeader_of_start {m : HdrMatch} {before : List Byte} {hi lo : Byte}
    (h : ∀ (j : Nat) (x y : Byte), j < before.length → (before ++ [hi, lo])[j]? = some x →
      (before ++ [hi, lo])[j + 1]? = some y → hdrValid m (Word.ofBytes x y) = false) :
    NoHeader m (0 :: (before ++ [hi])) := by
  refine List.IsChain.cons ?_ fun b _ => hdrValid_ofBytes_zero m b
  rw [List.isChain_iff_getElem]
  intro j hj
  have hlt : j < before.length := by simpa using hj
  have hprefix : ∀ i, i < before.length + 1 → (before ++ [hi, lo])[i]? = (before ++ [hi])[i]? := fun i hi' => by
    rw [List.append_cons, List.getElem?_append_left (by simpa using hi')]
  exact h j _ _ hlt
    (by rw [hprefix j (by omega), List.getElem?_eq_getElem])
    (by rw [hprefix (j + 1) (by omega), List.getElem?_eq_getElem])

theorem Decoder.swallow_cons (b : Byte) (bs : List Byte) (d : Decoder) :
    d.swallow (b :: bs) = (d.swallow [b]).swallow bs := by
  simp [Decoder.swallow, BitVec.ofNat_add, BitVec.add_assoc, BitVec.add_comm 1#32]

theorem satIncr_iterate_toNat_le (n : Nat) (c : Count) : (satIncr^[n] c).toNat ≤ c.toNat + n := by
  induction n generalizing c with
  | zero => exact Nat.le_refl _
  | succ n ih =>
    have hrest := ih (satIncr c)
    rw [satIncr_toNat] at hrest
    rw [Function.iterate_succ_apply]
    omega

theorem Decoder.swallow_budgetSpent {bs : List Byte} {d : Decoder}
    (hbudget : d.budgetEn = true → d.seekCnt.toNat + bs.length < d.maxBytes.toNat) :
    (d.swallow bs).budgetSpent = false := by
  rw [Decoder.budgetSpent_eq_false_iff]
  intro hen
  exact (satIncr_iterate_toNat_le bs.length d.seekCnt).trans_lt (hbudget hen)

/-- A seek consumes bytes that form no header, one turn for each (42_scanner.md R208). -/
theorem decoderRun_swallow {s : State} {bs : List Byte} {rest : List Answer} (hst : s.dec.st = .seek)
    (hsource : s.source = bs.map .byte ++ rest) (hnone : NoHeader s.params.hdrMatch (s.dec.sr.lo :: bs))
    (hbudget : s.dec.budgetEn = true → s.dec.seekCnt.toNat + bs.length ≤ s.dec.maxBytes.toNat) :
    decoderRun bs.length s = .next { s with source := rest, turns := [], dec := s.dec.swallow bs } := by
  induction bs generalizing s with
  | nil =>
    have hsource' : s.source = rest := hsource
    simp [decoderRun_zero, Decoder.swallow, hsource']
  | cons b bs ih =>
    obtain ⟨hinvalid, hnone'⟩ := List.isChain_cons_cons.1 hnone
    simp only [List.length_cons] at hbudget
    have hunspent : s.dec.budgetSpent = false :=
      s.dec.budgetSpent_eq_false_iff.2 fun hen => by
        have hbound := hbudget hen
        omega
    have hturn : s.fetchDecoder.perform =
        .next { s with source := bs.map .byte ++ rest, dec := s.dec.swallow [b] } :=
      (perform_fetchDecoder_seek hst).trans (congrArg _ (scanStep_invalid hunspent hsource hinvalid))
    have hcount := satIncr_iterate_toNat_le 1 s.dec.seekCnt
    have hbudget' : s.dec.budgetEn = true →
        (satIncr^[1] s.dec.seekCnt).toNat + bs.length ≤ s.dec.maxBytes.toNat := fun hen => by
      have hbound := hbudget hen
      omega
    rw [← scanWindow_lo s.dec.sr b] at hnone'
    have hrest := ih (s := { s with source := bs.map .byte ++ rest, dec := s.dec.swallow [b] }) hst rfl hnone'
      hbudget'
    rw [Decoder.swallow_cons]
    exact decoderRun_succ_iff.2 ⟨_, hturn, hrest⟩

/-! ### The first header -/

/-- The decoder after a seek over the bytes `before` and the header `w`, which it has latched (42_scanner.md
R203). -/
def Decoder.found (before : List Byte) (w : Word) (d : Decoder) : Decoder :=
  (d.swallow (before ++ [w.hi])).latch w

theorem Decoder.found_hdrOff (before : List Byte) (w : Word) (d : Decoder) :
    (d.found before w).hdrOff = d.pos + BitVec.ofNat 32 before.length := by
  simp [Decoder.found, Decoder.latch, Decoder.swallow, BitVec.ofNat_add, ← BitVec.add_assoc]

theorem Decoder.found_pos (before : List Byte) (w : Word) (d : Decoder) :
    (d.found before w).pos = d.pos + BitVec.ofNat 32 (before.length + 2) := by
  simp [Decoder.found, Decoder.latch, Decoder.swallow, BitVec.ofNat_add, BitVec.add_assoc]

/-- The seek as the low byte of the first header is about to be read. -/
def State.beforeLow (s : State) (before : List Byte) (w : Word) (rest : List Answer) : State :=
  { s with source := .byte w.lo :: rest, turns := [], dec := s.dec.swallow (before ++ [w.hi]) }

theorem State.beforeLow_window (s : State) (before : List Byte) (w : Word) (rest : List Answer) :
    scanWindow (s.beforeLow before w rest).dec.sr w.lo = w := by
  have hlast : (s.beforeLow before w rest).dec.sr.lo = w.hi := by simp [State.beforeLow, Decoder.swallow]
  rw [scanWindow, hlast, Word.ofBytes_hi_lo]

section Found

variable {s : State} {before : List Byte} {w : Word} {rest : List Answer}
  (hbudget : s.dec.budgetEn = true → s.dec.seekCnt.toNat + (before.length + 2) ≤ s.dec.maxBytes.toNat)
include hbudget

theorem State.beforeLow_budgetSpent : (s.beforeLow before w rest).dec.budgetSpent = false :=
  Decoder.swallow_budgetSpent fun hen => by
    rw [List.length_append, List.length_singleton]
    exact hbudget hen

variable (hst : s.dec.st = .seek) (hsource : s.source = (before ++ [w.hi, w.lo]).map .byte ++ rest)
  (hnone : NoHeader s.params.hdrMatch (s.dec.sr.lo :: (before ++ [w.hi])))
include hst hsource hnone

/-- The turn on the low byte of the first header is the last of the seek. -/
theorem decoderRun_low :
    decoderRun (before.length + 2) s = .next { (s.beforeLow before w rest).scanStep with turns := [] } := by
  have hprefix : decoderRun (before ++ [w.hi]).length s = .next (s.beforeLow before w rest) :=
    decoderRun_swallow hst (by simp [hsource]) hnone fun hen => by
      rw [List.length_append, List.length_singleton]
      exact (Nat.le_succ _).trans (hbudget hen)
  have hlast : decoderRun 1 (s.beforeLow before w rest) =
      .next { (s.beforeLow before w rest).scanStep with turns := [] } :=
    decoderRun_succ_iff.2 ⟨_, perform_fetchDecoder_seek hst, rfl⟩
  rw [show before.length + 2 = (before ++ [w.hi]).length + 1 by simp]
  exact decoderRun_add_iff.2 ⟨_, hprefix, hlast⟩

variable (hvalid : hdrValid s.params.hdrMatch w = true)
include hvalid

theorem decoderRun_found_body (hcount : wordCount w ≠ 0) :
    decoderRun (before.length + 2) s =
      .next { s with source := rest, turns := [], dec := { s.dec.found before w with st := .body } } := by
  have hscan := scanStep_body (State.beforeLow_budgetSpent (rest := rest) (w := w) hbudget) rfl
  rw [State.beforeLow_window] at hscan
  rw [decoderRun_low hbudget hst hsource hnone, hscan hvalid hcount]
  rfl

theorem decoderRun_found_empty (hcount : wordCount w = 0) :
    decoderRun (before.length + 2) s =
      .next { s with
        source := rest
        turns := []
        dec := (s.dec.found before w).deliver
          (classify s.params.lmMask w (s.dec.pos + BitVec.ofNat 32 before.length) []) } := by
  have hscan := scanStep_empty (State.beforeLow_budgetSpent (rest := rest) (w := w) hbudget) rfl
  rw [State.beforeLow_window] at hscan
  rw [decoderRun_low hbudget hst hsource hnone, hscan hvalid hcount, ← Decoder.found_hdrOff _ w]
  rfl

end Found

/-- Settles O37: the seek swallows `before` and the high byte, and latches the header on its low byte. -/
theorem scanFindsTheFirstHeader : Obligations.ScanFindsTheFirstHeader := by
  unfold Obligations.ScanFindsTheFirstHeader
  intro s before hi lo rest hst hsr hcnt hsource hvalid hearlier hbudget
  have hnone : NoHeader s.params.hdrMatch (s.dec.sr.lo :: (before ++ [(Word.ofBytes hi lo).hi])) := by
    rw [hsr, Word.hi_ofBytes]
    exact noHeader_of_start hearlier
  have hsource' : s.source =
      (before ++ [(Word.ofBytes hi lo).hi, (Word.ofBytes hi lo).lo]).map .byte ++ rest := by
    rw [Word.hi_ofBytes, Word.lo_ofBytes]
    exact hsource
  have hbudget' : s.dec.budgetEn = true →
      s.dec.seekCnt.toNat + (before.length + 2) ≤ s.dec.maxBytes.toNat := by simpa [hcnt] using hbudget
  have hoff := s.dec.found_hdrOff before (Word.ofBytes hi lo)
  have hpos := s.dec.found_pos before (Word.ofBytes hi lo)
  by_cases hcount : wordCount (Word.ofBytes hi lo) = 0
  · exact ⟨_, decoderRun_found_empty hbudget' hst hsource' hnone hvalid hcount, rfl, hoff, hpos, rfl, rfl,
      fun hne => absurd hcount hne, fun _ => ⟨rfl, rfl, rfl⟩⟩
  · exact ⟨_, decoderRun_found_body hbudget' hst hsource' hnone hvalid hcount, rfl, hoff, hpos, rfl, rfl,
      fun _ => ⟨rfl, rfl, rfl⟩, fun heq => absurd heq hcount⟩

end Sys2Proof.Machine
end

section
/-! A body on the wire is read as its words, two turns of the decoder for each, and the last one ends the frame as
classification decides (43_assembler.md R231, R232). -/

namespace Sys2Proof.Machine

open Sys2Proof

/-! ### A body byte by its place in its word -/

section BodyTaken

variable {par : Params} {b : Byte} {d : Decoder}

theorem Decoder.bodyTaken_high (heven : d.bcnt.toNat % 2 = 0) :
    d.bodyTaken par b = some { d with bcnt := d.bcnt + 1, hibyte := b } := by
  have hhigh : ¬d.lowByteNext = true := by rw [d.lowByteNext_iff]; omega
  exact if_neg hhigh

theorem Decoder.bodyTaken_low (hodd : d.bcnt.toNat % 2 = 1) (hmore : d.bcnt.toNat + 1 ≠ 2 * d.bodyWords) :
    d.bodyTaken par b =
      some { d with
        bcnt := d.bcnt + 1
        bodyBuf := d.bodyBuf.write d.bodyIndex (Word.ofBytes d.hibyte b) } := by
  simp only [Decoder.bodyTaken, d.lowByteNext_iff.2 hodd, hmore, if_true, if_false]

theorem Decoder.bodyTaken_last {ws : List Word} (hodd : d.bcnt.toNat % 2 = 1)
    (hlast : d.bcnt.toNat + 1 = 2 * d.bodyWords) (hprefix : d.bodyPrefix (d.bodyWords - 1) = some ws) :
    d.bodyTaken par b =
      some (Decoder.deliver (classify par.lmMask d.hdr d.hdrOff (ws ++ [Word.ofBytes d.hibyte b]))
        { d with
          bcnt := d.bcnt + 1
          bodyBuf := d.bodyBuf.write d.bodyIndex (Word.ofBytes d.hibyte b) }) := by
  simp only [Decoder.bodyTaken, d.lowByteNext_iff.2 hodd, hlast, hprefix, if_true]

end BodyTaken

/-- The words at the start of BODYBUF are read back in order (10_state.md R38). -/
theorem Decoder.bodyPrefix_eq {d : Decoder} {ws : List Word} (hfits : ws.length ≤ d.bodyWords)
    (hreads : ∀ i, i < ws.length → d.bodyBuf.read i = ws[i]?) : d.bodyPrefix ws.length = some ws := by
  induction ws using List.reverseRecOn with
  | nil => rfl
  | append_singleton ws w ih =>
    rw [List.length_append, List.length_singleton] at hfits hreads ⊢
    have hprefix : d.bodyPrefix ws.length = some ws := ih (by omega) fun i hi => by
      rw [hreads i (by omega), List.getElem?_append_left hi]
    have hword : d.bodyWord ws.length = some w := by
      rw [Decoder.bodyWord, if_pos (by omega), hreads _ (by omega), List.getElem?_concat_length]
    simp only [Decoder.bodyPrefix, hprefix, hword]

/-! ### A whole word -/

/-- The decoder has received the words `ws` of a body, each whole (43_assembler.md R232). -/
def Decoder.Received (ws : List Word) (d : Decoder) : Prop :=
  d.bcnt.toNat = 2 * ws.length ∧ ∀ i, i < ws.length → d.bodyBuf.read i = ws[i]?

/-- The decoder as it takes the low byte of the body word `w`: two bytes are read, and the high one waits in
HIBYTE. -/
def Decoder.highTaken (d : Decoder) (w : Word) : Decoder :=
  { d with pos := d.pos + 1 + 1, bcnt := d.bcnt + 1, hibyte := w.hi }

/-- The decoder after the two bytes of the body word `w`. -/
def Decoder.storeWord (d : Decoder) (w : Word) : Decoder :=
  { d.highTaken w with
    bcnt := (d.highTaken w).bcnt + 1
    bodyBuf := d.bodyBuf.write (d.highTaken w).bodyIndex w }

section Received

variable {d : Decoder} {got : List Word} (h : d.Received got) (hroom : got.length < d.bodyWords)
include h hroom

theorem Decoder.Received.highTaken_bcnt (w : Word) : (d.highTaken w).bcnt.toNat = 2 * got.length + 1 := by
  obtain ⟨hcnt, -⟩ := h
  rw [← hcnt]
  exact Decoder.bcnt_succ (by omega)

theorem Decoder.Received.highTaken_bodyIndex (w : Word) : (d.highTaken w).bodyIndex = got.length := by
  rw [Decoder.bodyIndex, h.highTaken_bcnt hroom]
  omega

theorem Decoder.Received.storeWord (w : Word) : (d.storeWord w).Received (got ++ [w]) := by
  have hcnt := h.highTaken_bcnt hroom w
  constructor
  · have hsucc : (d.storeWord w).bcnt.toNat = (d.highTaken w).bcnt.toNat + 1 :=
      Decoder.bcnt_succ (d := d.highTaken w) (by rw [hcnt]; show _ < 2 * d.bodyWords; omega)
    rw [hsucc, hcnt, List.length_append, List.length_singleton]
    omega
  · intro i hi
    rw [List.length_append, List.length_singleton] at hi
    show (d.bodyBuf.write (d.highTaken w).bodyIndex w).read i = _
    rw [h.highTaken_bodyIndex hroom]
    by_cases heq : i = got.length
    · rw [heq, Memory.read_write_same, List.getElem?_concat_length]
    · have hlt : i < got.length := by omega
      rw [Memory.read_write_other _ _ _ _ heq, h.2 i hlt, List.getElem?_append_left hlt]

/-- The low byte of a word that is not the last stores the word. -/
theorem Decoder.Received.bodyTaken_low (par : Params) (w : Word) (hmore : got.length + 1 ≠ d.bodyWords) :
    (d.highTaken w).bodyTaken par w.lo = some (d.storeWord w) := by
  have hcnt := h.highTaken_bcnt hroom w
  have hword : Word.ofBytes (d.highTaken w).hibyte w.lo = w := Word.ofBytes_hi_lo w
  rw [Decoder.bodyTaken_low (by omega) (by rw [hcnt]; show _ ≠ 2 * d.bodyWords; omega), hword]
  rfl

/-- The low byte of the last word stores it and ends the frame on the words in arrival order. -/
theorem Decoder.Received.bodyTaken_last (par : Params) (w : Word) (hlast : got.length + 1 = d.bodyWords) :
    (d.highTaken w).bodyTaken par w.lo =
      some ((d.storeWord w).deliver (classify par.lmMask d.hdr d.hdrOff (got ++ [w]))) := by
  have hcnt := h.highTaken_bcnt hroom w
  have hword : Word.ofBytes (d.highTaken w).hibyte w.lo = w := Word.ofBytes_hi_lo w
  have hwords : (d.highTaken w).bodyWords = got.length + 1 := hlast.symm
  have hprefix : (d.highTaken w).bodyPrefix ((d.highTaken w).bodyWords - 1) = some got := by
    rw [hwords, Nat.add_sub_cancel]
    exact Decoder.bodyPrefix_eq (d := d.highTaken w) (by omega) h.2
  rw [Decoder.bodyTaken_last (by omega) (by omega) hprefix, hword]
  rfl

end Received

theorem perform_fetchDecoder_bodyByte {s : State} {b : Byte} {rest : List Answer} {d : Decoder}
    (hst : s.dec.st = .body) (hroom : s.dec.bcnt.toNat < 2 * s.dec.bodyWords)
    (hsource : s.source = .byte b :: rest)
    (htaken : Decoder.bodyTaken s.params b { s.dec with pos := s.dec.pos + 1 } = some d) :
    s.fetchDecoder.perform = .next { s with source := rest, dec := d } :=
  (perform_fetchDecoder_body hst (by simp [hsource])).trans (bodyStep_byte hroom hsource htaken)

/-- The two turns of a body word: the high byte waits, and the low byte has the effect `d`. -/
theorem decoderRun_word {s : State} {got : List Word} {w : Word} {rest : List Answer} {d : Decoder}
    (hst : s.dec.st = .body) (hgot : s.dec.Received got) (hroom : got.length < s.dec.bodyWords)
    (hsource : s.source = .byte w.hi :: .byte w.lo :: rest)
    (hlow : (s.dec.highTaken w).bodyTaken s.params w.lo = some d) :
    decoderRun 2 s = .next { s with source := rest, turns := [], dec := d } := by
  have hcntLow := hgot.highTaken_bcnt hroom w
  have hroomLow : (s.dec.highTaken w).bcnt.toNat < 2 * s.dec.bodyWords := by omega
  obtain ⟨hcnt, -⟩ := hgot
  have hfirst : s.fetchDecoder.perform =
      .next { s with
        source := .byte w.lo :: rest
        dec := { s.dec with pos := s.dec.pos + 1, bcnt := s.dec.bcnt + 1, hibyte := w.hi } } :=
    perform_fetchDecoder_bodyByte hst (by omega) hsource (Decoder.bodyTaken_high (by simp [hcnt]))
  refine decoderRun_succ_iff.2 ⟨_, hfirst, decoderRun_succ_iff.2 ⟨{ s with source := rest, dec := d }, ?_, rfl⟩⟩
  exact perform_fetchDecoder_bodyByte hst hroomLow rfl hlow

/-! ### The body -/

/-- A body whose words `got` are received is read to its end, two turns for each word of `ws` that is left, and ends
as classification decides. -/
theorem decoderRun_body {s : State} {got ws : List Word} {rest : List Answer} (hst : s.dec.st = .body)
    (hgot : s.dec.Received got) (hne : ws ≠ []) (hlength : got.length + ws.length = s.dec.bodyWords)
    (hsource : s.source = (wireBytes ws).map .byte ++ rest) :
    decoderRun (2 * ws.length) s =
      .next { s with
        source := rest
        turns := []
        dec := (ws.foldl Decoder.storeWord s.dec).deliver
          (classify s.params.lmMask s.dec.hdr s.dec.hdrOff (got ++ ws)) } := by
  induction ws generalizing s got with
  | nil => exact absurd rfl hne
  | cons w ws ih =>
    rw [List.length_cons] at hlength
    have hroom : got.length < s.dec.bodyWords := by omega
    cases ws with
    | nil => exact decoderRun_word hst hgot hroom hsource (hgot.bodyTaken_last hroom s.params w hlength)
    | cons w' ws =>
      have hmore : got.length + 1 ≠ s.dec.bodyWords := by
        rw [List.length_cons] at hlength
        omega
      have hword := decoderRun_word hst hgot hroom hsource (hgot.bodyTaken_low hroom s.params w hmore)
      have hlength' : (got ++ [w]).length + (w' :: ws).length = s.dec.bodyWords := by
        rw [List.length_append, List.length_singleton]
        omega
      have hrest := ih
        (s := { s with source := (wireBytes (w' :: ws)).map .byte ++ rest, dec := s.dec.storeWord w })
        hst (hgot.storeWord hroom w) (List.cons_ne_nil _ _) hlength' rfl
      rw [List.append_assoc] at hrest
      rw [List.length_cons, Nat.mul_succ, Nat.add_comm]
      exact decoderRun_add_iff.2 ⟨_, hword, hrest⟩

/-- The words of a body are counted and stored, and leave everything else of the decoder. -/
theorem Decoder.foldl_storeWord (ws : List Word) (d : Decoder) :
    ∃ (bcnt : BitVec 9) (hibyte : Byte) (bodyBuf : Memory),
      ws.foldl Decoder.storeWord d =
        { d with
          pos := d.pos + BitVec.ofNat 32 (2 * ws.length), bcnt := bcnt, hibyte := hibyte, bodyBuf := bodyBuf } := by
  induction ws generalizing d with
  | nil => exact ⟨d.bcnt, d.hibyte, d.bodyBuf, by simp⟩
  | cons w ws ih =>
    obtain ⟨bcnt, hibyte, bodyBuf, hws⟩ := ih (d.storeWord w)
    refine ⟨bcnt, hibyte, bodyBuf, ?_⟩
    have hpos : d.pos + 1 + 1 + BitVec.ofNat 32 (2 * ws.length) =
        d.pos + BitVec.ofNat 32 (2 * (ws.length + 1)) := by
      rw [Nat.mul_succ, Nat.add_comm, BitVec.ofNat_add, ← BitVec.add_assoc, BitVec.add_assoc d.pos]
      rfl
    rw [List.foldl_cons, hws, List.length_cons, ← hpos]
    rfl

end Sys2Proof.Machine
end

section
/-! PROOF of O47: a frame on the wire is a seek over its header and a run over its body, and no turn fewer ends it
(70_reset_and_hazards.md R351). -/

namespace Sys2Proof.Machine

open Sys2Proof

/-- A packet that classification answers holds the header, the offset and the body it was asked of. -/
theorem classify_packet {lmMask hdr : Word} {off : Pos} {body : List Word} {P : Packet}
    (h : classify lmMask hdr off body = .packet P) : P.hdr = hdr ∧ P.off = off ∧ P.body = body := by
  rcases classify_cases lmMask hdr off body with ⟨front, -, -, hv⟩ | ⟨e, info, -, hv⟩ <;> rw [hv] at h
  · cases h
    exact ⟨rfl, rfl, rfl⟩
  · cases h

/-- A run that takes an answer on every turn and ends is busy before its end: in IDLE the decoder takes none
(44_interface.md R278). -/
theorem decoderRun_busy_before {n k : Nat} {s t : State} (hrun : decoderRun n s = .next t)
    (hlength : s.source.length = t.source.length + n) (hk : k < n) :
    ∃ u, decoderRun k s = .next u ∧ u.dec.st ≠ .idle := by
  obtain ⟨m, rfl⟩ := Nat.exists_eq_add_of_lt hk
  rw [Nat.add_assoc] at hrun
  obtain ⟨u, hu, hrest⟩ := decoderRun_add_iff.1 hrun
  refine ⟨u, hu, fun hidle => ?_⟩
  rw [decoderRun_idle hidle] at hrest
  cases hrest
  have htaken := decoderRun_source_length hu
  simp only at hlength
  omega

theorem wireBytes_length (ws : List Word) : (wireBytes ws).length = 2 * ws.length := by
  induction ws with
  | nil => rfl
  | cons w ws ih =>
    simp only [wireBytes, List.length_cons, ih]
    omega

/-- A frame is received in two turns for each of its words and ends as classification decides, with the result
registers as they were until then. -/
theorem decoderRun_frame {s : State} {before : List Byte} {hdr : Word} {body : List Word} {rest : List Answer}
    (hbudget : s.dec.budgetEn = true → s.dec.seekCnt.toNat + (before.length + 2) ≤ s.dec.maxBytes.toNat)
    (hst : s.dec.st = .seek)
    (hsource : s.source = (before ++ wireBytes (hdr :: body)).map .byte ++ rest)
    (hnone : NoHeader s.params.hdrMatch (s.dec.sr.lo :: (before ++ [hdr.hi])))
    (hvalid : hdrValid s.params.hdrMatch hdr = true) (hlength : body.length = (wordCount hdr).toNat) :
    ∃ d : Decoder, d.pktValid = s.dec.pktValid ∧ d.errValid = s.dec.errValid ∧
      decoderRun (before.length + 2 + 2 * body.length) s =
        .next { s with
          source := rest
          turns := []
          dec := d.deliver
            (classify s.params.lmMask hdr (s.dec.pos + BitVec.ofNat 32 before.length) body) } := by
  have hsource' : s.source =
      (before ++ [hdr.hi, hdr.lo]).map .byte ++ ((wireBytes body).map .byte ++ rest) := by
    rw [hsource]
    simp [wireBytes]
  by_cases hcount : wordCount hdr = 0
  · obtain rfl : body = [] := List.eq_nil_of_length_eq_zero (by rw [hlength, hcount]; rfl)
    exact ⟨s.dec.found before hdr, rfl, rfl, decoderRun_found_empty hbudget hst hsource' hnone hvalid hcount⟩
  · have hne : body ≠ [] := fun hnil => hcount (BitVec.eq_of_toNat_eq (by rw [← hlength, hnil]; rfl))
    have hfound := decoderRun_found_body hbudget hst hsource' hnone hvalid hcount
    have hbody := decoderRun_body
      (s := { s with
        source := (wireBytes body).map .byte ++ rest
        turns := []
        dec := { s.dec.found before hdr with st := .body } })
      (got := []) rfl ⟨rfl, by simp⟩ hne (by rw [List.length_nil, Nat.zero_add, hlength]; rfl) rfl
    obtain ⟨bcnt, hibyte, bodyBuf, hd⟩ :=
      Decoder.foldl_storeWord body { s.dec.found before hdr with st := .body }
    rw [← Decoder.found_hdrOff before hdr]
    exact ⟨_, by rw [hd]; rfl, by rw [hd]; rfl, decoderRun_add_iff.2 ⟨_, hfound, hbody⟩⟩

/-- Settles O47: the run of the frame, by the verdict; and it takes an answer on each turn. -/
theorem frameOnTheWireIsHandedOver : Obligations.FrameOnTheWireIsHandedOver := by
  unfold Obligations.FrameOnTheWireIsHandedOver
  intro s before hdr body rest hst hsr hcnt hpkt herr hsource hvalid hlength hearlier hbudget
  have hnone : NoHeader s.params.hdrMatch (s.dec.sr.lo :: (before ++ [hdr.hi])) := by
    rw [hsr]
    exact noHeader_of_start hearlier
  obtain ⟨d, hpktKept, herrKept, hrun⟩ :=
    decoderRun_frame (by simpa [hcnt] using hbudget) hst hsource hnone hvalid hlength
  refine ⟨⟨_, hrun, Decoder.deliver_st _ d, rfl, fun P hP => ?_, fun e info he => ?_⟩, fun k hk => ?_⟩
  · obtain ⟨hhdr, -, hbody⟩ := classify_packet hP
    have hwords : P.words = hdr :: body := by rw [Packet.words, hhdr, hbody]
    simp only [hP, Decoder.deliver_packet]
    refine ⟨rfl, herrKept.trans herr, rfl, congrArg wireBytes hwords, fun u hu => ?_⟩
    rcases exec_pktWords_next hu with ⟨-, rfl⟩ | ⟨hunread, -⟩
    · exact congrArg (fun ws => QueryOut.answer (.words ws)) hwords
    · cases hunread
  · simp only [he, Decoder.deliver_error]
    exact ⟨hpktKept.trans hpkt, rfl, rfl, rfl⟩
  · refine decoderRun_busy_before hrun ?_ hk
    simp only [hsource, List.length_append, List.length_map, wireBytes_length, List.length_cons]
    omega

end Sys2Proof.Machine
end

section
/-! PROOF of O39 to O41 and O46: what one body step does, by the source's answer and the place of the byte in its word
(43_assembler.md R231, R233), and what the steps of a whole body come to (43_assembler.md R232). -/

namespace Sys2Proof.Machine

open Sys2Proof

/-! ### The operations that run as the body step -/

/-- The operations that run as the body step which completes the word `w` of class `c`: BODY_BYTE, and the class
itself (30_encoding.md R100, log 13). -/
def WordClass.operations (c : WordClass) (w : Word) : List Instr :=
  .bodyByte :: match c with
    | .lm1 => [.lm1Word0 w]
    | .function => [.functionWord w]
    | .lambda => [.lambdaWord w]
    | .battery => [.batteryWord w]
    | .aux => [.auxWord w]

/-- The class of a word at its place is the operation that the decoder reads it as. -/
theorem WordClass.operations_wordClass (p : Params) (pl : Place) (w : Word) :
    operations (wordClass p.lmMask pl w) w = [.bodyByte, decodeBodyWord p pl w] := by
  unfold operations decodeBodyWord
  cases wordClass p.lmMask pl w <;> rfl

theorem exec_bodyByte {s : State} (hst : s.dec.st = .body) : exec .bodyByte s = s.bodyStep :=
  execBodyByte_body hst

theorem exec_operations {s : State} {w : Word} {c : WordClass} {i : Instr} (hst : s.dec.st = .body)
    (hword : s.pendingBodyWord = some w) (hclass : wordClass s.params.lmMask s.bodyPlace w = c)
    (hi : i ∈ WordClass.operations c w) : exec i s = s.bodyStep := by
  subst hclass
  rw [WordClass.operations_wordClass, List.mem_pair] at hi
  rcases hi with rfl | rfl
  · exact exec_bodyByte hst
  · exact (exec_decodeBodyWord hword).trans (execBodyByte_body hst)

/-! ### The obligations -/

/-- Settles O39: the body step on EOS. -/
theorem endOfStreamInBodyRaisesTruncatedStream : Obligations.EndOfStreamInBodyRaisesTruncatedStream := by
  unfold Obligations.EndOfStreamInBodyRaisesTruncatedStream
  intro s rest hst hroom hsource
  refine ⟨s.dec.bcnt.setWidth 32, ?_, (exec_bodyByte hst).trans (bodyStep_eos hroom hsource)⟩
  exact BitVec.toNat_setWidth_of_le (by decide)

/-- Settles O40: the body step on a high byte, and on the low byte of a word that is not the last. -/
theorem bodyBytesAreStoredAsWords : Obligations.BodyBytesAreStoredAsWords := by
  unfold Obligations.BodyBytesAreStoredAsWords
  constructor
  case left =>
    intro s b rest hst hroom hsource heven
    exact (exec_bodyByte hst).trans (bodyStep_byte hroom hsource (Decoder.bodyTaken_high heven))
  case right =>
    intro s b rest w c hst hmore hsource hodd hw hclass i hi
    subst hw
    refine ⟨_, ?_, Memory.read_write_same _ _ _, fun j hj => Memory.read_write_other _ _ j _ hj⟩
    rw [exec_operations hst (pendingBodyWord_low hsource hodd) hclass hi]
    exact bodyStep_byte (by omega) hsource (Decoder.bodyTaken_low hodd (Nat.ne_of_lt hmore))

/-- Settles O41: the body step on the last byte, with the words before it read back from BODYBUF. -/
theorem lastBodyByteClassifiesTheFrame : Obligations.LastBodyByteClassifiesTheFrame := by
  unfold Obligations.LastBodyByteClassifiesTheFrame
  intro s b rest w c ws hst hlast hsource hw hclass hlength hreads i hi
  subst hw
  have hodd : s.dec.bcnt.toNat % 2 = 1 := by omega
  have hprefix : Decoder.bodyPrefix { s.dec with pos := s.dec.pos + 1 } (s.dec.bodyWords - 1) = some ws := by
    rw [← hlength, Nat.add_sub_cancel]
    exact Decoder.bodyPrefix_eq (Nat.le_of_succ_le hlength.le) hreads
  refine ⟨_, ?_, Memory.read_write_same _ _ _, fun j hj => Memory.read_write_other _ _ j _ hj⟩
  rw [exec_operations hst (pendingBodyWord_low hsource hodd) hclass hi]
  exact bodyStep_byte (by omega) hsource (Decoder.bodyTaken_last hodd hlast hprefix)

/-- Settles O46: the run of a body of which no word is received, by the verdict. -/
theorem bodyOnTheWireIsReadAsItsWords : Obligations.BodyOnTheWireIsReadAsItsWords := by
  unfold Obligations.BodyOnTheWireIsReadAsItsWords
  intro s words rest hst hcnt hne hlength hsource
  have hnone : s.dec.Received [] := ⟨by rw [hcnt]; rfl, by simp⟩
  have hrun := decoderRun_body hst hnone hne (by rw [List.length_nil, Nat.zero_add, hlength]) hsource
  obtain ⟨bcnt, hibyte, bodyBuf, hd⟩ := Decoder.foldl_storeWord words s.dec
  rw [hd, List.nil_append] at hrun
  refine ⟨_, hrun, by simp, rfl, by simp, by simp, by simp, by simp, by simp, fun P hP => ?_, fun e info he => ?_⟩
  · simp [hP]
  · simp [he]

end Sys2Proof.Machine
end

section
/-! PROOF of O42 and O43: CLASSIFY, by the tests of the classification pass, and the packets it emits (43_assembler.md
R236, R237). -/

namespace Sys2Proof.Machine

open Sys2Proof

/-! ### The tests of the pass -/

theorem hasLmMarker_eq_false_iff {lm w : Word} : hasLmMarker lm w = false ↔ w &&& lm = 0 := by
  simp [hasLmMarker]

theorem hasLmMarker_eq_true_iff {lm w : Word} : hasLmMarker lm w = true ↔ w &&& lm ≠ 0 := by
  simp [hasLmMarker]

theorem hasDivider_eq_false_iff {w : Word} : hasDivider w = false ↔ w &&& 0x3800#16 = 0 := by
  simp [hasDivider]

theorem hasDivider_eq_true_iff {w : Word} : hasDivider w = true ↔ w &&& 0x3800#16 ≠ 0 := by
  simp [hasDivider]

/-- The function marker is bit 7 (30_encoding.md R94). -/
theorem hasFunctionMarker_eq (w : Word) : hasFunctionMarker w = w.getLsbD 7 := by
  have hbit : w &&& 0x0080#16 = if w.getLsbD 7 then 0x0080#16 else 0#16 := BitVec.and_twoPow w 7
  cases h : w.getLsbD 7 <;> rw [h] at hbit <;> simp [hasFunctionMarker, hbit]

theorem frontKinds_battery (w0 w1 : Word) {w2 : Word} (rest : List Word) (h : hasDivider w2 = true) :
    frontKinds (w0 :: w1 :: w2 :: rest) = [.function, .lambda, .battery] := if_pos h

theorem frontKinds_lambda (w0 w1 : Word) {rest : List Word}
    (h : ∀ w2 more, rest = w2 :: more → hasDivider w2 = false) :
    frontKinds (w0 :: w1 :: rest) = [.function, .lambda] := by
  cases rest with
  | nil => rfl
  | cons w2 more => simp [frontKinds, h w2 more rfl]

/-! ### CLASSIFY in the step that it belongs to -/

theorem exec_classify {s : State} {hdr : Word} {off : Pos} {body : List Word}
    (hlength : body.length = (wordCount hdr).toNat) (hst : s.dec.st = if body = [] then .seek else .body) :
    exec (.classify hdr off body) s =
      .next { s with dec := s.dec.deliver (classify s.params.lmMask hdr off body) } := by
  have hlegal : s.dec.st ≠ .illegal := by rw [hst]; split <;> simp
  have hdue : classifyDue s.dec.st hdr body = true := by simp [classifyDue, hlength, hst]
  exact (if_neg hlegal).trans (if_pos hdue)

/-- A packet of the declared length, field by field: each word of `aux` after the front is an aux word. -/
theorem packetOf_eq {hdr : Word} (off : Pos) {body aux : List Word} {front : List Kind}
    (hlength : body.length = (wordCount hdr).toNat) (haux : body.length = front.length + aux.length) :
    packetOf hdr off body front =
      { hdr := hdr, off := off, n := wordCount hdr, body := body
        kind := front ++ aux.map fun _ => .aux
        chan := List.replicate front.length 0 ++ (List.range aux.length).map fun c => BitVec.ofNat 8 (c + 1) } := by
  have hcount : BitVec.ofNat 8 body.length = wordCount hdr := by simp [hlength]
  have hrest : body.length - front.length = aux.length := by omega
  simp only [packetOf, hcount, hrest, List.map_const', auxChannels]

/-! ### The obligations -/

/-- Settles O42: the verdict of the pass in each case, and its delivery. -/
theorem classifyEndsTheFrame : Obligations.ClassifyEndsTheFrame := by
  unfold Obligations.ClassifyEndsTheFrame
  intro hdr off body s hlength hst
  rw [exec_classify hlength hst]
  refine ⟨?empty, fun w0 rest hbody => ?_⟩
  case empty =>
    rintro rfl
    rfl
  subst hbody
  refine ⟨fun hlm => ?lm1, fun hlm hbit hrest => ?alone, fun hlm hbit w1 aux hrest hdivider => ?lambda,
    fun hlm hbit w1 w2 aux hrest hdivider => ?battery, fun hlm hbit => ?unmarked⟩
  case lm1 =>
    rw [classify_lm1 hdr off rest (hasLmMarker_eq_true_iff.2 hlm), BitVec.ofNat_toNat]
    rfl
  all_goals
    replace hlm := hasLmMarker_eq_false_iff.2 hlm
    rw [← hasFunctionMarker_eq] at hbit
  case alone =>
    subst hrest
    rw [classify_function_alone hdr off hlm hbit]
    rfl
  case lambda =>
    subst hrest
    rw [classify_function hdr off w1 aux hlm hbit,
      frontKinds_lambda w0 w1 fun w2 more h => hasDivider_eq_false_iff.2 (hdivider w2 more h),
      packetOf_eq off (aux := aux) hlength (Nat.add_comm _ 2)]
    rfl
  case battery =>
    subst hrest
    rw [classify_function hdr off w1 (w2 :: aux) hlm hbit,
      frontKinds_battery w0 w1 aux (hasDivider_eq_true_iff.2 hdivider),
      packetOf_eq off (aux := aux) hlength (Nat.add_comm _ 3)]
    rfl
  case unmarked =>
    rw [classify_unmarked hdr off rest hlm hbit,
      packetOf_eq off (front := []) (aux := w0 :: rest) hlength (Nat.zero_add _).symm]
    rfl

/-- Settles O43: an emitted packet is assembled behind one of the three fronts. -/
theorem emittedPacketsKeepTheInvariants : Obligations.EmittedPacketsKeepTheInvariants := by
  unfold Obligations.EmittedPacketsKeepTheInvariants
  intro p hdr off body P hvalid hlength hpacket
  refine ⟨?_, classify_packet hpacket⟩
  rcases classify_cases p.lmMask hdr off body with ⟨front, hfront, hfits, hv⟩ | ⟨e, info, -, hv⟩ <;>
    rw [hv] at hpacket <;> cases hpacket
  exact packetOf_ok hvalid hlength hfront hfits

end Sys2Proof.Machine
end

section
/-! PROOF of O59: of the turns only a reset and a decoder turn that ends in IDLE with PKT_VALID = 1 write PKT
(43_assembler.md R238, R241). -/

namespace Sys2Proof.Machine

open Sys2Proof

theorem Decoder.deliver_pkt (v : Verdict) (d : Decoder) :
    (d.deliver v).pkt = d.pkt ∨ (d.deliver v).pktValid = true := by
  cases v with
  | packet P => exact .inr rfl
  | error e info => exact .inl rfl

/-- A byte taken into the window leaves PKT, or completes an empty frame. -/
theorem Decoder.scanned_pkt (par : Params) (p : Pos) (b : Byte) (d : Decoder) :
    (d.scanned par p b).pkt = d.pkt ∨ (d.scanned par p b).st = .idle ∧ (d.scanned par p b).pktValid = true := by
  rcases d.scanned_cases par p b with ⟨-, hd⟩ | ⟨-, -, hd⟩ | ⟨-, -, hd⟩ <;> rw [hd]
  · exact .inl rfl
  · exact .inr ⟨rfl, rfl⟩
  · exact .inl rfl

/-- A byte taken into the body leaves PKT, or completes a frame that is accepted. -/
theorem Decoder.bodyTaken_pkt {par : Params} {b : Byte} {d d' : Decoder} (h : d.bodyTaken par b = some d') :
    d'.pkt = d.pkt ∨ d'.st = .idle ∧ d'.pktValid = true := by
  rcases Decoder.bodyTaken_some h with ⟨-, rfl⟩ | ⟨-, -, rfl⟩ | ⟨ws, -, -, -, rfl⟩
  · exact .inl rfl
  · exact .inl rfl
  · exact (Decoder.deliver_pkt _ _).imp_right fun hvalid => ⟨Decoder.deliver_st _ _, hvalid⟩

/-- PKT after a turn: as it was, or emitted by a turn of the busy decoder, or as after reset. -/
theorem TurnEffect.pkt {u : Turn} {s t : State} (heffect : TurnEffect u s t) :
    t.dec.pkt = s.dec.pkt ∨
    (s.dec.busy = true ∧ u = .decoder ∧ t.dec.st = .idle ∧ t.dec.pktValid = true) ∨
    t.dec = Decoder.reset := by
  cases heffect with
  | reset => exact .inr (.inr rfl)
  | resetInput => exact .inr (.inr rfl)
  | scanned hst =>
    have hbusy : s.dec.busy = true := by simp [Decoder.busy, hst]
    exact (Decoder.scanned_pkt _ _ _ _).imp_right fun hemit => .inl ⟨hbusy, rfl, hemit⟩
  | bodyTaken hst _ _ htaken =>
    have hbusy : s.dec.busy = true := by simp [Decoder.busy, hst]
    exact (Decoder.bodyTaken_pkt htaken).imp_right fun hemit => .inl ⟨hbusy, rfl, hemit⟩
  | _ => exact .inl (by simp)

/-- Settles O59: the effect of the step's turn says who writes PKT. -/
theorem packetIsWrittenOnlyByEmit : Obligations.PacketIsWrittenOnlyByEmit := by
  unfold Obligations.PacketIsWrittenOnlyByEmit
  intro s t hstep
  rcases step_next hstep with ⟨-, rfl⟩ | ⟨u, ts, hturns, heffect⟩
  · exact .inl rfl
  · rcases heffect.pkt with hkept | ⟨hbusy, rfl, hemit⟩ | hreset
    · exact .inl hkept
    · exact .inr (.inl ⟨hbusy, ⟨ts, hturns⟩, hemit⟩)
    · exact .inr (.inr hreset)

end Sys2Proof.Machine
end

section
/-! PROOF of O3 to O9: the commands by the state of the block (44_interface.md R270 to R276), and the answer to a
withdrawn request (70_reset_and_hazards.md R346). -/

namespace Sys2Proof.Machine

open Sys2Proof

/-! ### A command by the state of the block -/

theorem State.whenIdle_idle {s : State} (f : Decoder → Decoder) (hst : s.dec.st = .idle) :
    s.whenIdle f = .next (s.mapDec f) := by
  unfold State.whenIdle
  rw [hst]

theorem State.whenIdle_busy {s : State} (f : Decoder → Decoder) (hst : s.dec.st = .seek ∨ s.dec.st = .body) :
    s.whenIdle f = .next s.ignoreCommand := by
  unfold State.whenIdle
  rcases hst with hst | hst <;> rw [hst]

theorem Decoder.busy_of_seek_or_body {d : Decoder} (hst : d.st = .seek ∨ d.st = .body) : d.busy = true := by
  rcases hst with hst | hst <;> simp [Decoder.busy, hst]

/-- A reserved code is recorded while BUSY = 1, and changes nothing else (44_interface.md R275). -/
theorem State.reservedCommand_eq (s : State) :
    s.reservedCommand = { s with hostFault := s.hostFault || s.dec.busy } := by
  unfold State.reservedCommand
  cases hbusy : s.dec.busy
  · simp
  · simp [State.ignoreCommand]

theorem exec_decodeNext_idle {s : State} (hst : s.dec.st = .idle) :
    exec .decodeNext s = .next (s.mapDec Decoder.startSeek) := State.whenIdle_idle _ hst

theorem exec_setBudget_idle {s : State} (hst : s.dec.st = .idle) (k : Count) :
    exec (.setBudget k) s = .next (s.mapDec fun d => { d with budgetEn := true, maxBytes := k }) :=
  State.whenIdle_idle _ hst

theorem exec_clearBudget_idle {s : State} (hst : s.dec.st = .idle) :
    exec .clearBudget s = .next (s.mapDec fun d => { d with budgetEn := false }) := State.whenIdle_idle _ hst

/-! ### The obligations -/

/-- Settles O3: an owed answer is discarded, any other one stops the machine. -/
theorem lateAnswerIsDiscarded : Obligations.LateAnswerIsDiscarded := by
  unfold Obligations.LateAnswerIsDiscarded
  intro s a rest ts hturns hsource
  rw [step_cons hturns]
  constructor
  · intro howed
    rw [fetchTurn_lateAnswer_owed (by simpa using howed.ne')]
    simp [Fetched.perform, State.discardAnswer, hsource]
  · intro hunowed
    rw [fetchTurn_lateAnswer_unowed (by simpa using hunowed)]
    rfl

/-- Settles O4: NOP answers the state that it finds. -/
theorem nopHasNoEffect : Obligations.NopHasNoEffect := by
  unfold Obligations.NopHasNoEffect
  exact fun _ => rfl

/-- Settles O5: the writes are `Decoder.startSeek`'s, and over the cleared `SR` a window lacks bit 15. -/
theorem decodeNextStartsAFreshSeek : Obligations.DecodeNextStartsAFreshSeek := by
  unfold Obligations.DecodeNextStartsAFreshSeek
  exact ⟨fun _ hst => exec_decodeNext_idle hst, fun m b => hdrValid_ofBytes_zero m b⟩

/-- Settles O6: the seek starts with `SEEKCNT` = 0, which has reached a budget of 0. -/
theorem setBudgetBoundsTheNextSeek : Obligations.SetBudgetBoundsTheNextSeek := by
  unfold Obligations.SetBudgetBoundsTheNextSeek
  intro s k hst
  refine ⟨exec_setBudget_idle hst k, ?_⟩
  rintro t u rfl ht hu
  rw [exec_setBudget_idle hst] at ht
  have hidle : t.dec.st = .idle := by cases ht; exact hst
  rw [exec_decodeNext_idle hidle] at hu
  have hseek : u.dec.st = .seek := by cases hu; rfl
  have hcnt : u.dec.seekCnt = 0 := by cases hu; rfl
  have hspent : u.dec.budgetSpent = true := by
    cases ht
    cases hu
    exact (Decoder.budgetSpent_iff _).2 ⟨rfl, Nat.zero_le _⟩
  refine (execScanByte_seek hseek).trans ?_
  rw [scanStep_budgetSpent hspent, hcnt]
  rfl

/-- Settles O7: without `BUDGET_EN` no count spends the budget. -/
theorem clearBudgetUnboundsTheSeek : Obligations.ClearBudgetUnboundsTheSeek := by
  unfold Obligations.ClearBudgetUnboundsTheSeek
  exact fun s hst => ⟨_, exec_clearBudget_idle hst, rfl, rfl, rfl⟩

/-- Settles O8: the three commands that need the block idle are ignored, and so is a reserved code. -/
theorem commandsAreIgnoredWhileBusy : Obligations.CommandsAreIgnoredWhileBusy := by
  unfold Obligations.CommandsAreIgnoredWhileBusy
  intro s cmd arg hst hnop hreset
  rcases decodeCommand_cases cmd arg with
    ⟨hcode, -⟩ | ⟨-, hi⟩ | ⟨-, hi⟩ | ⟨-, hi⟩ | ⟨hcode, -⟩ | ⟨-, -, hreserved⟩
  · exact absurd hcode hnop
  · rw [hi]; exact State.whenIdle_busy _ hst
  · rw [hi]; exact State.whenIdle_busy _ hst
  · rw [hi]; exact State.whenIdle_busy _ hst
  · exact absurd hcode hreset
  · rw [hreserved, State.reservedCommand_eq, Decoder.busy_of_seek_or_body hst, Bool.or_true]

/-- Settles O9: the codes 0x4 to 0xE are the reserved ones. -/
theorem reservedCommandsHaveNoEffect : Obligations.ReservedCommandsHaveNoEffect := by
  unfold Obligations.ReservedCommandsHaveNoEffect
  intro s cmd arg hlow hhigh
  rcases decodeCommand_cases cmd arg with
    ⟨rfl, -⟩ | ⟨rfl, -⟩ | ⟨rfl, -⟩ | ⟨rfl, -⟩ | ⟨rfl, -⟩ | ⟨-, -, hreserved⟩
  · simp at hlow
  · simp at hlow
  · simp at hlow
  · simp at hlow
  · simp at hhigh
  · rw [hreserved, State.reservedCommand_eq]

end Sys2Proof.Machine
end

section
/-! PROOF of O11, O30 and O31: the packet queries with a packet held and with none, and the reserved query codes
(44_interface.md R280, R282, R283). -/

namespace Sys2Proof.Machine

open Sys2Proof

theorem exec_pktWords_noPacket {s : State} (hvalid : s.dec.pktValid = false) :
    exec .pktWords s = .next (s.answerQuery (.fail .noPacket)) := by
  show execPktWords s = _
  rw [execPktWords, if_neg (by simp [hvalid])]

/-- A query is answered wherever a packet held keeps the packet invariants (43_assembler.md R237). -/
theorem exec_decodeQuery_answers {s : State} (hpacket : s.dec.pktValid = true → PacketOk s.params s.dec.pkt)
    (sel : BitVec 5) (word fields : Word) :
    ∃ o, exec (decodeQuery sel word fields) s = .next (s.answerQuery o) := by
  rcases decodeQuery_cases sel word fields with ⟨o, hanswer⟩ | hafr | hwords
  · exact ⟨_, hanswer s⟩
  · rw [hafr]
    cases hvalid : s.dec.pktValid with
    | false => exact ⟨_, exec_pktAfr_noPacket hvalid⟩
    | true =>
      obtain ⟨o, ho⟩ := (hpacket hvalid).packetAfr_isSome
      exact ⟨o, exec_pktAfr_held hvalid ho⟩
  · rw [hwords]
    cases hvalid : s.dec.pktValid with
    | false => exact ⟨_, exec_pktWords_noPacket hvalid⟩
    | true => exact ⟨_, exec_pktWords_held hvalid (hpacket hvalid).words⟩

/-- Settles O11: a query writes the query port alone, and the packet queries test PKT_VALID first. -/
theorem queriesChangeNoState : Obligations.QueriesChangeNoState := by
  unfold Obligations.QueriesChangeNoState
  rintro i ⟨sel, word, fields, rfl⟩ s
  refine ⟨fun t h => exec_decodeQuery_next h, fun hpacket => exec_decodeQuery_answers hpacket _ _ _, ?_⟩
  rintro hvalid (hafr | hwords)
  · rw [hafr]; exact exec_pktAfr_noPacket hvalid
  · rw [hwords]; exact exec_pktWords_noPacket hvalid

/-- Settles O30: PKT_WORDS by PKT_VALID. -/
theorem packetWordsAreTheWireWords : Obligations.PacketWordsAreTheWireWords := by
  unfold Obligations.PacketWordsAreTheWireWords
  exact fun _ => ⟨exec_pktWords_noPacket, exec_pktWords_held⟩

/-- The twelve codes from 0x14 up are reserved (30_encoding.md R111). -/
theorem exec_decodeQuery_reserved {sel : BitVec 5} (hsel : 0x14 ≤ sel.toNat) (word fields : Word) (s : State) :
    exec (decodeQuery sel word fields) s = .next s.illegalQuery := by
  obtain ⟨m, hm⟩ := Nat.exists_eq_add_of_le hsel
  have hlt : m < 12 := by omega
  unfold decodeQuery
  rw [hm]
  interval_cases m <;> rfl

/-- Settles O31: each reserved code answers IllegalQuery on the query port. -/
theorem reservedQueriesAreIllegal : Obligations.ReservedQueriesAreIllegal := by
  unfold Obligations.ReservedQueriesAreIllegal
  exact fun s _ word fields hsel => exec_decodeQuery_reserved hsel word fields s

end Sys2Proof.Machine
end

section
/-! PROOF of O55 and O57: what starts a decode and how it ends. A turn of the busy decoder on an answer either takes
a byte and goes on, or ends the decode with one result (44_interface.md R277, R278). -/

namespace Sys2Proof.Machine

open Sys2Proof

/-! ### An idle block -/

/-- What a turn does to an idle block: `ST` leaves IDLE by DECODE_NEXT, the source by a late answer, and `POS` by a
reset. -/
theorem TurnEffect.from_idle {u : Turn} {s t : State} (heffect : TurnEffect u s t) (hidle : s.dec.st = .idle) :
    (t.dec.st = .idle ∨ t.dec.st = .seek ∧ ∃ arg, u = .command 0x1#4 arg) ∧
    (t.source = s.source ∨ u = .lateAnswer) ∧
    (t.dec.pos = s.dec.pos ∨ u = .resetInput ∨ ∃ arg, u = .command 0xF#4 arg) := by
  cases heffect with
  | decodeNext => exact ⟨.inr ⟨rfl, _, rfl⟩, .inl rfl, .inl rfl⟩
  | reset => exact ⟨.inl rfl, .inl rfl, .inr (.inr ⟨_, rfl⟩)⟩
  | resetInput => exact ⟨.inl rfl, .inl rfl, .inr (.inl rfl)⟩
  | lateAnswer => exact ⟨.inl (by simpa using hidle), .inr rfl, .inl (by simp)⟩
  | reserved => rw [State.reservedCommand_eq]; exact ⟨.inl hidle, .inl rfl, .inl rfl⟩
  | nop | ignored | setBudget | clearBudget | query | waits => exact ⟨.inl hidle, .inl rfl, .inl rfl⟩
  | timeout hst | streamEnded hst | scanned hst | truncated hst | bodyTaken hst => cases hidle.symm.trans hst

/-- Settles O57: the effect of the step's turn on an idle block. -/
theorem onlyDecodeNextLeavesIdle : Obligations.OnlyDecodeNextLeavesIdle := by
  unfold Obligations.OnlyDecodeNextLeavesIdle
  intro s t hidle hstep
  rcases step_next hstep with ⟨-, rfl⟩ | ⟨u, ts, hturns, heffect⟩
  · exact ⟨.inl hidle, .inl rfl, .inl rfl⟩
  · obtain ⟨hst, hsource, hpos⟩ := heffect.from_idle hidle
    rw [hturns]
    refine ⟨hst.imp_right ?_, hsource.imp_right ?_, hpos.imp_right (Or.imp ?_ ?_)⟩
    · rintro ⟨hseek, arg, rfl⟩; exact ⟨hseek, arg, ts, rfl⟩
    · rintro rfl; exact ⟨ts, rfl⟩
    · rintro rfl; exact ⟨ts, rfl⟩
    · rintro ⟨arg, rfl⟩; exact ⟨arg, ts, rfl⟩

/-! ### The end of a decode -/

/-- A decode has ended: the block is idle and holds one result (44_interface.md R277). -/
def Decoder.Ended (d : Decoder) : Prop := d.st = .idle ∧ d.pktValid = !d.errValid

section Ends

variable {d : Decoder}

theorem Decoder.ResultsClear.raise_ended (hclear : d.ResultsClear) (e : ErrorKind) (info : ErrInfo) :
    (d.raise e info).Ended := ⟨rfl, by simp [hclear.pktValid]⟩

theorem Decoder.ResultsClear.deliver_ended (hclear : d.ResultsClear) (v : Verdict) : (d.deliver v).Ended := by
  cases v with
  | packet P => exact ⟨rfl, by simp [hclear.errValid]⟩
  | error e info => exact hclear.raise_ended e info

/-- A byte taken into the window leaves the decode in progress, or completes an empty frame. -/
theorem Decoder.ResultsClear.scanned (hclear : d.ResultsClear) (hst : d.st = .seek) (par : Params) (p : Pos)
    (b : Byte) : (d.scanned par p b).busy = true ∨ (d.scanned par p b).Ended := by
  rcases d.scanned_cases par p b with ⟨-, hd⟩ | ⟨-, -, hd⟩ | ⟨-, -, hd⟩ <;> rw [hd]
  · exact .inl (Decoder.busy_of_seek_or_body (.inl hst))
  · exact .inr ⟨rfl, by simp [hclear.errValid]⟩
  · exact .inl (Decoder.busy_of_seek_or_body (.inr rfl))

/-- A byte taken into the body leaves the decode in progress, or completes the frame. -/
theorem Decoder.ResultsClear.bodyTaken (hclear : d.ResultsClear) (hst : d.st = .body) {par : Params} {b : Byte}
    {d' : Decoder} (htaken : d.bodyTaken par b = some d') : d'.busy = true ∨ d'.Ended := by
  rcases Decoder.bodyTaken_some htaken with ⟨-, rfl⟩ | ⟨-, -, rfl⟩ | ⟨ws, -, -, -, rfl⟩
  · exact .inl (Decoder.busy_of_seek_or_body (.inr hst))
  · exact .inl (Decoder.busy_of_seek_or_body (.inr hst))
  · refine .inr (Decoder.ResultsClear.deliver_ended ?_ _)
    exact ⟨hclear.pktValid, hclear.errValid, hclear.errCode, hclear.errInfo⟩

end Ends

/-- A turn of a decode from `s` has come to `t`: the decode has ended, or a byte was taken and it goes on. -/
def DecodeTurn (s t : State) : Prop :=
  t.dec.Ended ∨ t.dec.busy = true ∧ ∃ b, s.source = .byte b :: t.source

section DecodeTurn

variable {s : State} (hinv : s.Inv) (hsource : s.source ≠ [])
include hinv hsource

theorem scanStep_decodeTurn (hst : s.dec.st = .seek) : DecodeTurn s s.scanStep := by
  have hclear := hinv.resultsClear (.inl hst)
  rcases s.scanStep_cases with
    ⟨-, ht⟩ | ⟨-, hsilent, -⟩ | ⟨-, rest, -, ht⟩ | ⟨-, b, rest, hbyte, ht⟩
  · rw [ht]; exact .inl (hclear.raise_ended _ _)
  · exact absurd hsilent hsource
  · rw [ht]; exact .inl (hclear.raise_ended _ _)
  · rw [ht]
    have hclear' := (hinv.setPos (s.dec.pos + 1)).resultsClear (.inl hst)
    exact (hclear'.scanned hst _ _ b).symm.imp_right fun hbusy => ⟨hbusy, b, hbyte⟩

theorem bodyStep_decodeTurn (hst : s.dec.st = .body) {t : State} (ht : s.bodyStep = .next t) :
    DecodeTurn s t := by
  obtain ⟨-, ⟨hsilent, -⟩ | ⟨rest, -, rfl⟩ | ⟨b, rest, d, hbyte, htaken, rfl⟩⟩ := State.bodyStep_next ht
  · exact absurd hsilent hsource
  · exact .inl ((hinv.resultsClear (.inr hst)).raise_ended _ _)
  · have hclear := (hinv.setPos (s.dec.pos + 1)).resultsClear (.inr hst)
    exact (hclear.bodyTaken hst htaken).symm.imp_right fun hbusy => ⟨hbusy, b, hbyte⟩

/-- While the source answers, every turn of the busy decoder takes a byte or ends the decode. -/
theorem perform_fetchDecoder_decodeTurn (hbusy : s.dec.busy = true) :
    ∃ t, s.fetchDecoder.perform = .next t ∧ DecodeTurn s t := by
  match hst : s.dec.st with
  | .idle => simp [Decoder.busy, hst] at hbusy
  | .seek => exact ⟨_, perform_fetchDecoder_seek hst, scanStep_decodeTurn hinv hsource hst⟩
  | .body =>
    obtain ⟨t, ht⟩ := bodyStep_answers hinv hst
    exact ⟨t, (perform_fetchDecoder_body hst hsource).trans ht, bodyStep_decodeTurn hinv hsource hst ht⟩
  | .illegal => exact absurd hst hinv.legal

end DecodeTurn

/-- Settles O55, by induction on the bytes before EOS: a turn ends the decode or takes the first of them. -/
theorem everyDecodeCompletes : Obligations.EveryDecodeCompletes := by
  unfold Obligations.EveryDecodeCompletes
  intro s bytes rest hinv hbusy hsource
  induction bytes generalizing s with
  | nil =>
    obtain ⟨t, ht, hend | ⟨-, b, hbyte⟩⟩ := perform_fetchDecoder_decodeTurn hinv (by simp [hsource]) hbusy
    · exact ⟨1, _, by simp, decoderRun_succ_iff.2 ⟨t, ht, decoderRun_zero t⟩, hend⟩
    · cases hsource.symm.trans hbyte
  | cons b bytes ih =>
    obtain ⟨t, ht, hend | ⟨hbusy', b', hbyte⟩⟩ := perform_fetchDecoder_decodeTurn hinv (by simp [hsource]) hbusy
    · exact ⟨1, _, by simp, decoderRun_succ_iff.2 ⟨t, ht, decoderRun_zero t⟩, hend⟩
    · have hrest : t.source = bytes.map .byte ++ .eos :: rest :=
        (List.cons.inj (hsource.symm.trans hbyte)).2.symm
      obtain ⟨k, u, hk, hrun, hend⟩ := ih t ((decoder_effect ht).keeps_inv hinv) hbusy' hrest
      exact ⟨k + 1, u, by simpa using hk, decoderRun_succ_iff.2 ⟨t, ht, hrun⟩, hend⟩

end Sys2Proof.Machine
end

section
/-! PROOF of O45: the order of causes that arise together (60_exceptions.md R310), each from the rule that makes the
test: the scan step, the header check, the classification pass and PKT_AFR. -/

namespace Sys2Proof.Machine

open Sys2Proof

/-- A spent budget fails the scan step and leaves the source's answer unread. -/
theorem exec_scanByte_budgetSpent {s : State} (hst : s.dec.st = .seek) (hbudget : s.dec.budgetSpent = true) :
    exec .scanByte s = .next { s with dec := s.dec.raise .syncTimeout ⟨s.dec.pos, s.dec.seekCnt⟩ } :=
  (execScanByte_seek hst).trans (congrArg _ (scanStep_budgetSpent hbudget))

/-- Settles O45: each order is that of the tests in the step, the check, the pass and the query. -/
theorem errorPriorityIsAsListed : Obligations.ErrorPriorityIsAsListed := by
  unfold Obligations.ErrorPriorityIsAsListed
  refine ⟨fun s rest hst hbudget _ => ?timeout, fun m w before after bit hsplit hbefore hbit => ?header,
    fun lm hdr w0 off hmarker _ => ?variant, fun s habsent => ⟨exec_pktAfr_noPacket, fun hvalid => ?absent⟩⟩
  case timeout => exact ⟨_, exec_scanByte_budgetSpent hst hbudget, rfl, rfl⟩
  case header => exact hdrValidate_first_failing hsplit hbefore hbit
  case variant => exact classify_lm1 hdr off [] (decide_eq_true hmarker)
  case absent => exact exec_pktAfr_held hvalid (packetAfr_absent habsent)

end Sys2Proof.Machine
end

section
/-! PROOF of O2: RESET sets every element from any state, and the reset input runs RESET (70_reset_and_hazards.md
R340); a request outstanding at the byte source is withdrawn (44_interface.md R274). -/

namespace Sys2Proof.Machine

open Sys2Proof

/-! ### RESET and the reset input -/

theorem exec_reset (s : State) : exec .reset s = .next s.resetDecoder := rfl

/-- The reset input's turn runs the operation that the command runs (70_reset_and_hazards.md R340). -/
theorem step_resetInput {s : State} {ts : List Turn} (hturns : s.turns = .resetInput :: ts) :
    step s = exec .reset { s with turns := ts } := step_cons hturns

theorem State.resetDecoder_atReset (s : State) : s.resetDecoder.dec.AtReset := resetHoldsTheSpecValues

/-! ### The request that a reset withdraws -/

/-- A request is outstanding in BODY, and in SEEK while the budget lasts (10_state.md R50). -/
theorem Decoder.requestOutstanding_iff (d : Decoder) :
    d.requestOutstanding = true ↔ d.st = .body ∨ (d.st = .seek ∧ d.budgetSpent = false) := by
  unfold Decoder.requestOutstanding
  cases d.st <;> simp

/-- After a reset one more request counts as withdrawn, where one was outstanding (44_interface.md R274). -/
theorem State.resetDecoder_withdrawn_eq_add (s : State) :
    s.resetDecoder.withdrawn = s.withdrawn +
      (if s.dec.st = .body ∨ (s.dec.st = .seek ∧ s.dec.budgetSpent = false) then 1 else 0) := by
  simp only [State.resetDecoder_withdrawn, Decoder.requestOutstanding_iff]
  split <;> rfl

/-! ### The obligation -/

/-- Settles O2: RESET answers the state with its decoder reset, and the reset input's turn is RESET. -/
theorem resetTakesEffectInAnyState : Obligations.ResetTakesEffectInAnyState := by
  unfold Obligations.ResetTakesEffectInAnyState
  intro s
  refine ⟨⟨s.resetDecoder, exec_reset s, s.resetDecoder_atReset, ?params, ?source, ?turns, ?hostFault, ?qOut,
    s.resetDecoder_withdrawn_eq_add⟩, fun _ => step_resetInput⟩
  case params => exact s.resetDecoder_params
  case source => exact s.resetDecoder_source
  case turns => exact s.resetDecoder_turns
  case hostFault => exact s.resetDecoder_hostFault
  case qOut => exact s.resetDecoder_qOut

end Sys2Proof.Machine
end
